-- ==== Sys2Proof/Word.lean ====
section
/-! DEFINITION. The widths of the block's values: the byte, the 32-bit command, argument and result word
(`30_encoding.md` rule R130), and the 4-bit port field (rule R132). -/

namespace Sys2Proof

/-- One data byte: a frame, a queue item, the data register (`20_memory.md` rule R100). -/
abbrev Byte := BitVec 8

/-- One 32-bit command, argument, payload or result word (`30_encoding.md` rule R130). -/
abbrev Word := BitVec 32

/-- A port identifier as the command word carries it, `word0[7:4]` (`30_encoding.md` rule R132). -/
abbrev PortId := BitVec 4

end Sys2Proof
end

