-- ==== Sys2Proof/Syntax.lean ====
section
/-! DEFINITION. The instructions of the block: the six commands of `30_encoding.md` rule R135 and the four handler
branches of rule R151, one constructor per row of `spec/opcode_table.json`. -/

namespace Sys2Proof

/-- The block's instructions. The six commands carry the fields of their words (`30_encoding.md` rules R136 to R141);
the four handler branches carry the port whose cause vector selected them (`42_interrupt_handler.md`, "Operands:
port p"), because no word carries it. -/
inductive Instr where
  /-- CONFIGURE, OP 0x1 (rules R136 and R170). -/
  | configure (port : PortId) (mode : Byte) (baud cspin pinset : Word)
  /-- TRANSMIT, OP 0x2: the payload is the LEN bytes carried in the payload words (rules R137 and R203). -/
  | transmit (port : PortId) (payload : List Byte)
  /-- RECEIVE, OP 0x3: LEN and the fill byte (rules R138 and R210). -/
  | receive (port : PortId) (len : BitVec 16) (fill : Byte)
  /-- EXCHANGE, OP 0x4: the TXLEN transmit bytes and the receive length LEN (rules R139 and R220). -/
  | exchange (port : PortId) (payload : List Byte) (rxLen : BitVec 16)
  /-- SET_CS, OP 0x5: `true` is level 1, high (rules R140 and R290). -/
  | setCs (port : PortId) (level : Bool)
  /-- GET_CS, OP 0x6 (rules R141 and R291). -/
  | getCs (port : PortId)
  /-- ISR_TXE, cause pattern `xxx1` (rules R151 and R262). -/
  | isrTxe (port : PortId)
  /-- ISR_RXNE, cause pattern `xx10` (rules R151 and R265). -/
  | isrRxne (port : PortId)
  /-- ISR_MODF, cause pattern `x100` (rules R151 and R272). -/
  | isrModf (port : PortId)
  /-- ISR_NONE, cause pattern `1000` (rules R151 and R274). -/
  | isrNone (port : PortId)
  deriving DecidableEq, Repr

end Sys2Proof
end

