-- ==== Sys2Proof/WellFormed.lean ====
section
/-! DEFINITION. Which instructions have an encoding. Every field but a payload is a bit vector of the field's own
width; a payload's length is carried in a 16-bit field (`30_encoding.md` rules R133 and R139). -/

namespace Sys2Proof

/-- A payload's length fits the 16-bit LEN or TXLEN field (`30_encoding.md` rules R133, R137 and R139). -/
def payloadFits (payload : List Byte) : Bool := decide (payload.length < 2 ^ 16)

/-- The instruction has an encoding, as a check. -/
def Instr.hasEncoding : Instr → Bool
  | .configure _ _ _ _ _ => true
  | .transmit _ payload => payloadFits payload
  | .receive _ _ _ => true
  | .exchange _ payload _ => payloadFits payload
  | .setCs _ _ => true
  | .getCs _ => true
  | .isrTxe _ => true
  | .isrRxne _ => true
  | .isrModf _ => true
  | .isrNone _ => true

/-- The instruction has an encoding. -/
abbrev Instr.WellFormed (i : Instr) : Prop := i.hasEncoding = true

/-- The port an instruction names. -/
abbrev Instr.port : Instr → PortId
  | .configure p _ _ _ _ => p
  | .transmit p _ => p
  | .receive p _ _ => p
  | .exchange p _ _ => p
  | .setCs p _ => p
  | .getCs p => p
  | .isrTxe p => p
  | .isrRxne p => p
  | .isrModf p => p
  | .isrNone p => p

/-- The instruction is one of the six commands a caller can issue; the handler branches are not
(`42_interrupt_handler.md`: "no caller can issue them"). -/
abbrev Instr.isCommand : Instr → Bool
  | .configure _ _ _ _ _ => true
  | .transmit _ _ => true
  | .receive _ _ _ => true
  | .exchange _ _ _ => true
  | .setCs _ _ => true
  | .getCs _ => true
  | .isrTxe _ => false
  | .isrRxne _ => false
  | .isrModf _ => false
  | .isrNone _ => false

/-- The command is a transfer: the only commands with more than one phase (`41_transfer.md`). -/
abbrev Instr.isTransfer : Instr → Bool
  | .configure _ _ _ _ _ => false
  | .transmit _ _ => true
  | .receive _ _ _ => true
  | .exchange _ _ _ => true
  | .setCs _ _ => false
  | .getCs _ => false
  | .isrTxe _ => false
  | .isrRxne _ => false
  | .isrModf _ => false
  | .isrNone _ => false

end Sys2Proof
end

