-- ==== Sys2Proof/Decode.lean ====
section
/-! DEFINITION. The command encoding and the handler's dispatch encoding (`30_encoding.md`): the decoder, total on any
list of words and any cause vector and rejecting by name, and after it the encoder, from the same tables. -/

namespace Sys2Proof

/-- Why a sequence of words is no legal command (`30_encoding.md` rules R144 and R155). Each raises the one fault
ILLEGAL_COMMAND. -/
inductive Illegal where
  /-- OP is 0x0 or 0x7 to 0xF (rule R144 (a)). -/
  | reservedOp
  /-- A reserved field of rules R136 to R141 is not 0 (rule R144 (b)). -/
  | reservedField
  /-- A padding byte of rule R142 is not 0x00 (rule R144 (c)). -/
  | nonZeroPadding
  /-- The words end before the length of rule R143: DEDUCED from rule R155 (log entry 5). -/
  | truncated
  deriving DecidableEq, Repr

/-! ### Fields (rules R131 to R134) -/

/-- `OP = word0[3:0]` (rule R131). -/
def opOf (w : Word) : BitVec 4 := w.extractLsb' 0 4

/-- `PORT = word0[7:4]` (rule R132). -/
def portOf (w : Word) : PortId := w.extractLsb' 4 4

/-- `IMM8 = word0[15:8]` (rule R134). -/
def imm8Of (w : Word) : Byte := w.extractLsb' 8 8

/-- `LEN = word0[31:16]` (rule R133). -/
def lenOf (w : Word) : BitVec 16 := w.extractLsb' 16 16

/-- `TXLEN = word1[15:0]` of EXCHANGE (rule R139). -/
def txLenOf (w : Word) : BitVec 16 := w.extractLsb' 0 16

/-! ### Payload packing (rule R142) -/

/-- The four bytes of a payload word, byte `i` from bits `[8i+7 : 8i]` (rule R142). -/
def unpackWord (w : Word) : List Byte :=
  [w.extractLsb' 0 8, w.extractLsb' 8 8, w.extractLsb' 16 8, w.extractLsb' 24 8]

/-- The payload word of four bytes, the first in the low bits (rule R142). -/
def packWord (b0 b1 b2 b3 : Byte) : Word := b3 ++ b2 ++ b1 ++ b0

/-- The payload words of a byte sequence, the last padded with 0x00 (rule R142). -/
def packBytes : List Byte → List Word
  | [] => []
  | [b0] => [packWord b0 0 0 0]
  | [b0, b1] => [packWord b0 b1 0 0]
  | [b0, b1, b2] => [packWord b0 b1 b2 0]
  | b0 :: b1 :: b2 :: b3 :: rest => packWord b0 b1 b2 b3 :: packBytes rest

/-- `ceil(n/4)`, the number of payload words of `n` bytes (rule R142). -/
def payloadWords (n : Nat) : Nat := (n + 3) / 4

/-- The first `n` bytes carried in the leading payload words, and the words after them (rules R142 and R144 (c)). -/
def takePayload (n : Nat) (ws : List Word) : Except Illegal (List Byte × List Word) :=
  if ws.length < payloadWords n then .error .truncated
  else
    let bytes := (ws.take (payloadWords n)).flatMap unpackWord
    if (bytes.drop n).all (fun b => b == 0) then .ok (bytes.take n, ws.drop (payloadWords n))
    else .error .nonZeroPadding

/-! ### The decoder (rules R135 to R144) -/

/-- CONFIGURE (rule R136): LEN is reserved, and three argument words follow. -/
def decodeConfigure (w : Word) (ws : List Word) : Except Illegal (Instr × List Word) :=
  if lenOf w ≠ 0 then .error .reservedField
  else
    match ws with
    | baud :: cspin :: pinset :: rest => .ok (.configure (portOf w) (imm8Of w) baud cspin pinset, rest)
    | _ => .error .truncated

/-- TRANSMIT (rule R137): IMM8 is reserved, and LEN payload bytes follow. -/
def decodeTransmit (w : Word) (ws : List Word) : Except Illegal (Instr × List Word) :=
  if imm8Of w ≠ 0 then .error .reservedField
  else
    match takePayload (lenOf w).toNat ws with
    | .ok (payload, rest) => .ok (.transmit (portOf w) payload, rest)
    | .error e => .error e

/-- RECEIVE (rule R138): one word, with no reserved field. -/
def decodeReceive (w : Word) (ws : List Word) : Except Illegal (Instr × List Word) :=
  .ok (.receive (portOf w) (lenOf w) (imm8Of w), ws)

/-- EXCHANGE (rule R139): IMM8 and `word1[31:16]` are reserved, and TXLEN payload bytes follow word 1. -/
def decodeExchange (w : Word) (ws : List Word) : Except Illegal (Instr × List Word) :=
  if imm8Of w ≠ 0 then .error .reservedField
  else
    match ws with
    | [] => .error .truncated
    | w1 :: ws1 =>
      if lenOf w1 ≠ 0 then .error .reservedField
      else
        match takePayload (txLenOf w1).toNat ws1 with
        | .ok (payload, rest) => .ok (.exchange (portOf w) payload (lenOf w), rest)
        | .error e => .error e

/-- SET_CS (rule R140): bit 8 is LEVEL; bits [15:9] and LEN are reserved. -/
def decodeSetCs (w : Word) (ws : List Word) : Except Illegal (Instr × List Word) :=
  if w.extractLsb' 9 7 ≠ 0 ∨ lenOf w ≠ 0 then .error .reservedField
  else .ok (.setCs (portOf w) (w.getLsbD 8), ws)

/-- GET_CS (rule R141): IMM8 and LEN are reserved. -/
def decodeGetCs (w : Word) (ws : List Word) : Except Illegal (Instr × List Word) :=
  if imm8Of w ≠ 0 ∨ lenOf w ≠ 0 then .error .reservedField
  else .ok (.getCs (portOf w), ws)

/-- Decodes the first command of a caller's stream of words, and gives the rest of the stream (rules R135, R143, R144
and R155). -/
def decodeCommand : List Word → Except Illegal (Instr × List Word)
  | [] => .error .truncated
  | w :: ws =>
    match (opOf w).toNat with
    | 1 => decodeConfigure w ws
    | 2 => decodeTransmit w ws
    | 3 => decodeReceive w ws
    | 4 => decodeExchange w ws
    | 5 => decodeSetCs w ws
    | 6 => decodeGetCs w ws
    | _ => .error .reservedOp

/-- The handler branch that the cause vector of port `p` selects: the first row of rule R151 whose match and mask fit.
`CV[p] = 0` does not fire. -/
def decodeCause (p : PortId) (cv : BitVec 4) : Option Instr :=
  if cv &&& 0x1#4 = 0x1#4 then some (.isrTxe p)
  else if cv &&& 0x3#4 = 0x2#4 then some (.isrRxne p)
  else if cv &&& 0x7#4 = 0x4#4 then some (.isrModf p)
  else if cv &&& 0xF#4 = 0x8#4 then some (.isrNone p)
  else none

/-- The length of a command in words, from word 0 and, for EXCHANGE, word 1 (rule R143). -/
def commandLength (w0 w1 : Word) : Nat :=
  match (opOf w0).toNat with
  | 1 => 4
  | 2 => 1 + payloadWords (lenOf w0).toNat
  | 4 => 2 + payloadWords (txLenOf w1).toNat
  | _ => 1

/-! ### The encoder (rules R131 to R142) -/

/-- A command word from its four fields (rule R131). -/
def commandWord (op : BitVec 4) (port : PortId) (imm8 : Byte) (len : BitVec 16) : Word :=
  len ++ imm8 ++ port ++ op

/-- Word 0 of a command. A handler branch has none, and 0 stands in its place. -/
def Instr.word0 : Instr → Word
  | .configure p mode _ _ _ => commandWord 1 p mode 0
  | .transmit p payload => commandWord 2 p 0 (BitVec.ofNat 16 payload.length)
  | .receive p len fill => commandWord 3 p fill len
  | .exchange p _ rxLen => commandWord 4 p 0 rxLen
  | .setCs p level => commandWord 5 p (BitVec.ofNat 8 level.toNat) 0
  | .getCs p => commandWord 6 p 0 0
  | .isrTxe _ => 0
  | .isrRxne _ => 0
  | .isrModf _ => 0
  | .isrNone _ => 0

/-- The words of a command after word 0 (rules R136 to R141). -/
def Instr.argWords : Instr → List Word
  | .configure _ _ baud cspin pinset => [baud, cspin, pinset]
  | .transmit _ payload => packBytes payload
  | .receive _ _ _ => []
  | .exchange _ payload _ => (BitVec.ofNat 32 payload.length) :: packBytes payload
  | .setCs _ _ => []
  | .getCs _ => []
  | .isrTxe _ => []
  | .isrRxne _ => []
  | .isrModf _ => []
  | .isrNone _ => []

/-- The words of a well-formed command (rules R130 and R136 to R142). -/
def encodeCommand (i : Instr) : List Word := i.word0 :: i.argWords

/-- The cause vector with the one bit of a handler branch set (rule R151), and 0 for a command. -/
def encodeCause : Instr → BitVec 4
  | .isrTxe _ => 0x1
  | .isrRxne _ => 0x2
  | .isrModf _ => 0x4
  | .isrNone _ => 0x8
  | .configure _ _ _ _ _ => 0
  | .transmit _ _ => 0
  | .receive _ _ _ => 0
  | .exchange _ _ _ => 0
  | .setCs _ _ => 0
  | .getCs _ => 0

/-! ### The opcode table's numbering -/

/-- The words of one whole command whose bits are `w`, bit 0 the least significant bit of word 0, with zero words up to
the command's length (rule R143). -/
def tableWords (w : Nat) : List Word :=
  let word := fun k => BitVec.ofNat 32 (w / 2 ^ (32 * k))
  (List.range (commandLength (word 0) (word 1))).map word

/-- Whether the table's bits are those of a cause vector: a row of at most 8 bits whose value is one of the 15 nonzero
vectors, but for the value 3, which the table's most specific row that fits gives to RECEIVE (log entry 12). -/
def isCauseRow (nbits w : Nat) : Bool := decide (nbits ≤ 8) && decide (w < 16) && w != 3

/-- The instruction the decoder reads from an opcode-table row's bits; a handler branch is read as one of port 0. -/
def decodeTableWord (nbits w : Nat) : Option Instr :=
  if isCauseRow nbits w then decodeCause 0 (BitVec.ofNat 4 w)
  else
    match decodeCommand (tableWords w) with
    | .ok (i, _) => some i
    | .error _ => none

end Sys2Proof
end

