-- ==== Sys2Proof/Config.lean ====
section
/-! DEFINITION. What an implementation fixes (`00_scope.md` section 4), the moves of the agents of section 5, and the
free values: what the spec leaves to the environment, as constants with no body. -/

namespace Sys2Proof

/-- What decrementing a counter at 0 gives (`00_scope.md` rule R17). -/
inductive Underflow where
  /-- `2^RXCNT_BITS - 1`. -/
  | wrap
  /-- 0. -/
  | saturate
  deriving DecidableEq, Repr

/-- The implementation parameters that a rule reads (`00_scope.md` section 4). `NUM_PORTS` and `NCALLERS` are the
lengths of the state's two lists of records. `RXCNT_BITS` is the decided 16 (rule R15) and stands in the width of the
counter. `T_IDLE`, `T_DONE`, `BASE[p]` and `IRQ[p]` are read by no rule (rules R14 and R102) and stand nowhere. -/
structure Params where
  /-- `QCAP`, the capacity of every byte queue (rule R10). -/
  qcap : Nat
  /-- `FBUS[p]`, the bus clock of each port in Hz (rule R11). -/
  fbus : List Word
  /-- `PMIN` (rule R12). -/
  pmin : Nat
  /-- `PMAX` (rule R12). -/
  pmax : Nat
  /-- `ENQUEUE_FINAL_RX` (rule R16). -/
  enqueueFinalRx : Bool
  /-- `RXCNT_UNDERFLOW` (rule R17). -/
  underflow : Underflow
  deriving DecidableEq, Repr

/-- What moves next: a step of one of the agents of `00_scope.md` rules R19 to R22 with the draw it takes, or one of
the misuses of `60_exceptions.md` rule R349 that a harness may attempt. -/
inductive Move where
  /-- A step of `CALLER c` (rule R19): it issues its next command, or takes its next phase. In a lock wait the lock's
  value decides between the success step and the timeout step (`20_memory.md` rule R90). -/
  | caller (c : Nat)
  /-- One firing of `ISR p` (rule R20). -/
  | isr (p : Nat)
  /-- A step of `PERIPH p` (rule R21); `miso` is what `Draw()` gives if the step is Complete (rule R27). -/
  | periph (p : Nat) (miso : Byte)
  /-- `ENV` raises a mode fault on port p (`44_peripheral.md` rule R325). -/
  | modeFault (p : Nat)
  /-- `ENV` raises another error on port p (`44_peripheral.md` rule R326). -/
  | busError (p : Nat)
  /-- A harness callback inside a firing of `ISR p` issues a command (`60_exceptions.md` rule R349 (a)). -/
  | callFromInterrupt (p : Nat)
  /-- A harness makes `CALLER c` issue a command while its first is still Busy (rule R349 (b)). -/
  | callWhileBusy (c : Nat)
  deriving DecidableEq, Repr, Inhabited

/-- FREE VALUE. The schedule and the draws where no input decides them: the n-th free move. The spec leaves the
interleaving of the agents, the waiter that takes a freed lock, the order among ports, the timeouts, the bus events
and the MISO bytes open (`93_implementation_defined.md` I6, I17 to I21). -/
opaque Config.freeMove : Nat → Move

/-- FREE VALUE. The chip-select level of each port at reset, `true` for high: "It is a free draw per port at reset"
(`10_state.md` rule R63). -/
opaque Config.csResetLevel : Nat → Bool

/-- The parameter values of the test vectors (`00_scope.md` section 4, column "vectors use"). The spec leaves the real
values OPEN; only `State.reset` uses these, and every statement about all states is about all parameters. -/
def Config.vectorParams : Params where
  qcap := 4
  fbus := [8000000, 8000000]
  pmin := 1
  pmax := 8
  enqueueFinalRx := false
  underflow := .wrap

end Sys2Proof
end

