-- ==== Sys2Proof/Machine/State.lean ====
section
/-! DEFINITION. The state of the block (`10_state.md`), as plain data: the port records, the caller records, FAULTS and
REFUSED (rule R30), the parameters of `00_scope.md` section 4 held as data, and the pending inputs of the host
(`70_reset_and_hazards.md` rule R425). Reset stands at the end. -/

namespace Sys2Proof.Machine

/-! ### Results and faults of a command -/

/-- The STATUS of a result (`30_encoding.md` rule R146). -/
inductive Status where
  /-- 0, OK. -/
  | ok
  /-- 1, INVALID_ARGUMENT. -/
  | invalidArgument
  /-- 2, RESOURCE_EXHAUSTED. -/
  | resourceExhausted
  /-- 3, TIMEOUT. -/
  | timeout
  deriving DecidableEq, Repr

/-- What a command that does not fault returns (`30_encoding.md` rules R145 and R147): STATUS, the LEVEL bit, and the
received bytes, whose number is COUNT. -/
structure CommandResult where
  status : Status
  level : Bool
  data : List Byte
  deriving DecidableEq, Repr

/-- The kinds of fault (`60_exceptions.md` rule R345). -/
inductive FaultKind where
  /-- Code 1 (rule R346). -/
  | illegalCommand
  /-- Code 2 (rule R347). -/
  | unconfigured
  /-- Code 3 (rule R348). -/
  | configBusy
  deriving DecidableEq, Repr

/-- A sticky fault record `(kind, agent, command word)` (`10_state.md` rule R57). -/
structure FaultRecord where
  kind : FaultKind
  caller : Nat
  word0 : Word
  deriving DecidableEq, Repr

/-! ### Callers -/

/-- The phases of TRANSMIT after TX0 (`41_transfer.md` rule R203). The index `i` of TX2(i) is given by the remaining
payload (`10_state.md` rule R32). -/
inductive TxPhase where
  | tx1 | tx2 | tx3 | tx4 | tx5 | tx6 | txf1 | txf2 | txa1 | txa2 | txa3 | txa4
  deriving DecidableEq, Repr

/-- The phases of RECEIVE after RX0 (`41_transfer.md` rule R210). -/
inductive RxPhase where
  | rx1 | rx2 | rx3 | rx4 | rx5 | rx6 | rx7 | rxa1 | rxa2 | rxa3 | rxa4
  deriving DecidableEq, Repr

/-- The phase a Busy caller takes next: one of TRANSMIT's, one of RECEIVE's, or one of EXCHANGE's own
(`41_transfer.md` rule R220). EX2 and the second half of EX3 are the inner transfers' phases. -/
inductive Phase where
  | tx (t : TxPhase)
  | rx (r : RxPhase)
  | ex1
  | ex5
  deriving DecidableEq, Repr

/-- A command's temporaries (`10_state.md` rule R32): the payload bytes not yet pushed, the sub-result of EXCHANGE, and
the bytes collected by RECEIVE. -/
structure Locals where
  remaining : List Byte
  sub : Status
  data : List Byte
  deriving DecidableEq, Repr

/-- `C[c]` (`10_state.md` rule R32). -/
inductive CallerState where
  | idle
  | busy (cmd : Instr) (phase : Phase) (locals : Locals)
  | stopped
  deriving DecidableEq, Repr

/-- A caller: its record `C[c]`, the words of its commands not yet decoded, and the results it has received, in order
(`10_state.md` rule R32; `70_reset_and_hazards.md` rules R425 and R432). -/
structure Caller where
  ctl : CallerState
  stream : List Word
  results : List CommandResult
  deriving DecidableEq, Repr

/-! ### Ports -/

/-- The frame in flight (`10_state.md` rule R49). -/
structure Shift where
  mosi : Byte
  capture : Bool
  csStart : Bool
  deriving DecidableEq, Repr

/-- How a frame ended (`10_state.md` rule R54). -/
inductive FrameStatus where
  | complete
  | aborted
  deriving DecidableEq, Repr

/-- A frame record of the wire trace (`10_state.md` rule R54). -/
structure Frame where
  mosi : Byte
  miso : Option Byte
  csStart : Bool
  csEnd : Bool
  status : FrameStatus
  deriving DecidableEq, Repr

/-- The interrupt enables named in a set `S` of `44_peripheral.md` rule R303. -/
structure IrqSet where
  txe : Bool
  rxne : Bool
  err : Bool
  deriving DecidableEq, Repr

/-- The record of one port (`10_state.md` rules R33 to R56): the stored fields of the bank, the hidden registers, the
queues and the traces. The hardwired bits (MSTR, LSBFIRST, DFF16, HALFDUP), the reserved bits and the computed bits
(TXE, RXNE, BSY, TXQC, RXQC) are not stored: `Flags.lean` gives them. A Bool is a bit, `true` for 1. -/
structure Port where
  /-- `CFG.CONFIGURED` (rule R34). -/
  configured : Bool
  /-- `CR.MODE = {CPOL, CPHA}` (rule R35). -/
  mode : BitVec 2
  /-- `CR.BR` (rule R36). -/
  br : BitVec 3
  /-- `CR.SPE` (rule R38). -/
  spe : Bool
  /-- `CR.CLKEN` (rule R40). -/
  clken : Bool
  /-- `IER.TXEIE` (rule R42). -/
  txeie : Bool
  /-- `IER.RXNEIE` (rule R42). -/
  rxneie : Bool
  /-- `IER.ERRIE` (rule R42). -/
  errie : Bool
  /-- `SR.MODF` (rule R45). -/
  modf : Bool
  /-- `SR.ERRF` (rule R46). -/
  errf : Bool
  /-- The transmit holding register behind DR (rule R48). -/
  txbuf : Option Byte
  /-- The receive register behind DR (rule R48). -/
  rxbuf : Option Byte
  /-- `SHIFT`, the frame in flight (rule R49). -/
  shift : Option Shift
  /-- `RXCNT` (rule R50). -/
  rxcnt : BitVec 16
  /-- `FILL` (rule R51). -/
  fill : Byte
  /-- `LOCK.TAKEN` (rule R53). -/
  taken : Bool
  /-- `CS.LEVEL` (rule R52). -/
  csLevel : Bool
  /-- `CSPIN` (rule R52). -/
  cspin : Word
  /-- `PINSET` (rule R52). -/
  pinset : Word
  /-- `TXQ`, the oldest byte first (rule R56). -/
  txq : List Byte
  /-- `RXQ`, the oldest byte first (rule R56). -/
  rxq : List Byte
  /-- `WIRE` (rule R54). -/
  wire : List Frame
  /-- `DRLOG` (rule R55). -/
  drlog : List Byte
  deriving DecidableEq, Repr

/-! ### The whole state -/

/-- The state of the block (`10_state.md` rule R30), with the parameters as constant data (log entry 1), the host's
pending inputs (log entry 2) and two fields of the model's own (log entries 2 and 3). -/
structure State where
  /-- The implementation parameters. No step writes them. -/
  params : Params
  /-- `P[0 .. NUM_PORTS-1]`: `NUM_PORTS` is the length. -/
  ports : List Port
  /-- `C[0 .. NCALLERS-1]`: `NCALLERS` is the length. -/
  callers : List Caller
  /-- `FAULTS`, a set kept as a list with no repeats (rule R57). -/
  faults : List FaultRecord
  /-- `REFUSED` (rule R57). -/
  refused : Bool
  /-- The moves the host has decided and the block has not yet taken, the next one first. -/
  agenda : List Move
  /-- How many free moves have been drawn: the argument of the next `Config.freeMove`. -/
  draws : Nat
  /-- The caller whose step runs: the "issuing caller" of `00_scope.md` rule R25. -/
  actor : Nat
  deriving DecidableEq, Repr

/-- `NUM_PORTS` (`00_scope.md` rule R9). -/
abbrev State.numPorts (s : State) : Nat := s.ports.length

/-- `NCALLERS` (`00_scope.md` rule R13). -/
abbrev State.numCallers (s : State) : Nat := s.callers.length

/-! ### Why a step stops -/

/-- Why the machine stops with a fault. These are not the faults of `60_exceptions.md` rule R345, which the machine
records and goes on from; no rule of the spec reaches any of them. -/
inductive Fault where
  /-- Raised by ISR_RXNE when RXBUF holds no byte: "A model may treat one as unreachable and fault, since nothing gives
  it a value" (`44_peripheral.md` rule R307). Safe. -/
  | dataRegisterEmpty
  /-- Raised by a peripheral step when BR holds a code above `PMAX - PMIN`, which no rule writes
  (`10_state.md` rule R36, `93_implementation_defined.md` I28). Safe. -/
  | prescalerCodeReserved
  /-- Raised by a transfer whose caller record holds a phase of another command, which no rule writes
  (`10_state.md` rule R32). Safe. -/
  | phaseOfOtherCommand
  deriving DecidableEq, Repr

/-- Why the machine has no meaning for a step. -/
inductive Refusal where
  /-- An instruction with no meaning yet. No arm raises it now. Safe. -/
  | notModelled (mnemonic : String)
  /-- Raised by every step once REFUSED is set: "takes no further step of any agent" (`60_exceptions.md` rule R349).
  Safe. -/
  | runRefused
  /-- Raised by a handler branch, or a phase of a transfer, of a port the block does not have: only ports
  `0 .. NUM_PORTS-1` have an agent (`00_scope.md` rules R9 and R20). No step reaches it. Safe. -/
  | noSuchPort
  /-- Raised by a command when `actor` is no caller (`00_scope.md` rule R19). No step reaches it. Safe. -/
  | noSuchCaller
  /-- Raised by a command when the acting caller is Stopped, and so "takes no further step" (`60_exceptions.md` rule
  R345). No step reaches it. Safe. -/
  | callerStopped
  deriving DecidableEq, Repr

/-! ### Reset (`10_state.md` rules R61 to R63) -/

/-- A port at reset, its chip-select line at the drawn level (rules R61 and R63). -/
def Port.reset (csLevel : Bool) : Port where
  configured := false
  mode := 0
  br := 0
  spe := false
  clken := false
  txeie := false
  rxneie := false
  errie := false
  modf := false
  errf := false
  txbuf := none
  rxbuf := none
  shift := none
  rxcnt := 0
  fill := 0
  taken := false
  csLevel := csLevel
  cspin := 0
  pinset := 0
  txq := []
  rxq := []
  wire := []
  drlog := []

/-- A caller at reset: Idle (rule R62), with no command given and no result received. -/
def Caller.reset : Caller where
  ctl := .idle
  stream := []
  results := []

/-- The block right after reset, for given parameters, drawn chip-select levels (one for each port) and number of
callers (`70_reset_and_hazards.md` rule R390). -/
def State.resetWith (params : Params) (csLevels : List Bool) (nCallers : Nat) : State where
  params := params
  ports := csLevels.map Port.reset
  callers := List.replicate nCallers Caller.reset
  faults := []
  refused := false
  agenda := []
  draws := 0
  actor := 0

/-- The block right after reset, with the test vectors' parameters (log entry 1) and free chip-select levels (log entry
4). -/
def State.reset : State :=
  State.resetWith Config.vectorParams [Config.csResetLevel 0, Config.csResetLevel 1] 1

end Sys2Proof.Machine
end

