-- ==== Sys2Proof/Machine/Flags.lean ====
section
/-! DEFINITION. The bits the block computes and the registers a reader sees (`10_state.md` rules R33 to R52), and the
cause vector (`30_encoding.md` rule R150). -/

namespace Sys2Proof.Machine

/-! ### Computed status bits -/

/-- `SR.TXE`: TXBUF is empty (rule R43). -/
def Port.txe (P : Port) : Bool := P.txbuf.isNone

/-- `SR.RXNE`: RXBUF holds a byte (rule R44). -/
def Port.rxne (P : Port) : Bool := P.rxbuf.isSome

/-- `SR.BSY`: SHIFT holds a frame in flight (rule R47). -/
def Port.bsy (P : Port) : Bool := P.shift.isSome

/-! ### The cause vector (`30_encoding.md` rule R150) -/

/-- `CV[p]`, bit 0 transmit-empty, bit 1 receive-not-empty, bit 2 mode fault, bit 3 other error. -/
def Port.cv (P : Port) : BitVec 4 :=
  BitVec.ofBool (P.errf && P.errie) ++ BitVec.ofBool (P.modf && P.errie) ++
    BitVec.ofBool (P.rxne && P.rxneie) ++ BitVec.ofBool (P.txe && P.txeie)

/-- Port p's interrupt line is asserted: `CV[p] != 0` (rule R150 and `60_exceptions.md` rule R354). -/
def Port.pending (P : Port) : Bool := P.cv != 0

/-- Some port has a pending cause (`60_exceptions.md` rule R360). -/
def State.anyPending (s : State) : Bool := s.ports.any Port.pending

/-! ### The registers as words (rule R33)

Reserved bits read 0 (rule R41). MSTR reads 1, and LSBFIRST, DFF16 and HALFDUP read 0 (rules R37 and R39). -/

/-- `CPHA = CR[0] = MODE[0]` (rule R35). -/
def Port.cpha (P : Port) : Bool := P.mode.getLsbD 0

/-- `CPOL = CR[1] = MODE[1]` (rule R35). -/
def Port.cpol (P : Port) : Bool := P.mode.getLsbD 1

/-- CR, offset 0x00. -/
def Port.cr (P : Port) : Word :=
  0#21 ++ BitVec.ofBool P.clken ++ 0#1 ++ 0#1 ++ 0#1 ++ BitVec.ofBool P.spe ++ P.br ++ 1#1 ++ P.mode

/-- IER, offset 0x04. -/
def Port.ier (P : Port) : Word :=
  0#29 ++ BitVec.ofBool P.errie ++ BitVec.ofBool P.rxneie ++ BitVec.ofBool P.txeie

/-- SR, offset 0x08. -/
def Port.sr (P : Port) : Word :=
  0#27 ++ BitVec.ofBool P.bsy ++ BitVec.ofBool P.errf ++ BitVec.ofBool P.modf ++ BitVec.ofBool P.rxne ++
    BitVec.ofBool P.txe

/-- LOCK, offset 0x18. -/
def Port.lockWord (P : Port) : Word := 0#31 ++ BitVec.ofBool P.taken

/-- TXQC, offset 0x1C: the occupancy of TXQ. -/
def Port.txqc (P : Port) : Word := 0#16 ++ BitVec.ofNat 16 P.txq.length

/-- RXQC, offset 0x20: the occupancy of RXQ. -/
def Port.rxqc (P : Port) : Word := 0#16 ++ BitVec.ofNat 16 P.rxq.length

/-- CS, offset 0x24. -/
def Port.csWord (P : Port) : Word := 0#31 ++ BitVec.ofBool P.csLevel

/-- CFG, offset 0x28. -/
def Port.cfgWord (P : Port) : Word := 0#31 ++ BitVec.ofBool P.configured

/-- The register at an offset of the bank as a reader of the state sees it, and none where the bank has no register. No
agent reads a register so (rule R60). DR, at 0x0C, gives RXBUF without emptying it, and none while RXBUF holds no byte:
only `Port.readData` is an access. -/
def Port.readReg (P : Port) (offset : Nat) : Option Word :=
  match offset with
  | 0x00 => some P.cr
  | 0x04 => some P.ier
  | 0x08 => some P.sr
  | 0x0C => P.rxbuf.map (fun b => b.setWidth 32)
  | 0x10 => some (P.rxcnt.setWidth 32)
  | 0x14 => some (P.fill.setWidth 32)
  | 0x18 => some P.lockWord
  | 0x1C => some P.txqc
  | 0x20 => some P.rxqc
  | 0x24 => some P.csWord
  | 0x28 => some P.cfgWord
  | 0x2C => some P.cspin
  | 0x30 => some P.pinset
  | _ => none

end Sys2Proof.Machine
end

