-- ==== Sys2Proof/Machine/Operands.lean ====
section
/-! DEFINITION. The values the commands compute from their operands: the prescaler (`40_configure.md` rule R171), the
counter's decrement (`42_interrupt_handler.md` rule R266), the result words (`30_encoding.md` rules R145 to R147), and
the ranges of the parameters (`00_scope.md` section 4). -/

namespace Sys2Proof.Machine

/-! ### The prescaler (`40_configure.md` rule R171) -/

/-- The least `j` from `k` on, within `fuel` tries, with `2^j >= r`. -/
def ceilLog2From : Nat → Nat → Nat → Nat
  | 0, k, _ => k
  | fuel + 1, k, r => if r ≤ 2 ^ k then k else ceilLog2From fuel (k + 1) r

/-- `ceil_log2(r)`, the least `k >= 0` with `2^k >= r`, for `1 <= r <= 2^32` (`00_scope.md` rule R24). -/
def ceilLog2 (r : Nat) : Nat := ceilLog2From 32 0 r

/-- `Prescale(f, b)`: `some k` for `(true, k)`, and `none` for `(false, 0)` (rule R171). -/
def prescale (params : Params) (f b : Nat) : Option Nat :=
  if b = 0 then none
  else
    let r := f / b
    if r = 0 then none
    else
      let k := ceilLog2 r
      if k < params.pmin ∨ params.pmax < k then none else some k

/-- `FBUS[p]` (`00_scope.md` rule R11). -/
def busClock (params : Params) (p : Nat) : Nat := (params.fbus.getD p 0).toNat

/-- The transfer mode a MODE operand names, and none for the values 4 to 255 (rule R172, `30_encoding.md` rule R154). -/
def modeOf (m : Byte) : Option (BitVec 2) := if m.toNat ≤ 3 then some (BitVec.ofNat 2 m.toNat) else none

/-! ### The counter (`42_interrupt_handler.md` rule R266) -/

/-- `Dec(x)`: modulo `2^16` under WRAP, `max(x - 1, 0)` under SATURATE. -/
def decCount (u : Underflow) (x : BitVec 16) : BitVec 16 :=
  match u with
  | .wrap => x - 1
  | .saturate => if x = 0 then 0 else x - 1

/-! ### Result words (`30_encoding.md` rules R145 to R147) -/

/-- The STATUS number of a result code (rule R146). -/
def Status.code : Status → Byte
  | .ok => 0
  | .invalidArgument => 1
  | .resourceExhausted => 2
  | .timeout => 3

/-- The code of a fault kind (`60_exceptions.md` rule R345). -/
def FaultKind.code : FaultKind → Nat
  | .illegalCommand => 1
  | .unconfigured => 2
  | .configBusy => 3

/-- The result word: STATUS in [7:0], LEVEL in [8], COUNT in [31:16] (rule R145). -/
def CommandResult.word (r : CommandResult) : Word :=
  BitVec.ofNat 16 r.data.length ++ 0#7 ++ BitVec.ofBool r.level ++ r.status.code

/-- The result word and its data words (rules R145 and R147). -/
def CommandResult.words (r : CommandResult) : List Word := r.word :: packBytes r.data

/-- A result with no data and LEVEL 0. -/
def CommandResult.plain (status : Status) : CommandResult where
  status := status
  level := false
  data := []

/-! ### Parameter ranges (`00_scope.md` section 4) -/

/-- Every parameter lies in its range; a model instantiated otherwise is refused (`60_exceptions.md` rule R349 (c)). -/
def State.paramsInRange (s : State) : Bool :=
  decide (1 ≤ s.numPorts) && decide (s.numPorts ≤ 16) && decide (1 ≤ s.numCallers) &&
    decide (1 ≤ s.params.qcap) && decide (s.params.qcap ≤ 65535) &&
    decide (s.params.fbus.length = s.numPorts) && s.params.fbus.all (fun f => f != 0) &&
    decide (s.params.pmin ≤ s.params.pmax) && decide (s.params.pmax ≤ s.params.pmin + 7)

end Sys2Proof.Machine
end

