-- ==== Sys2Proof/Machine/Ops.lean ====
section
/-! DEFINITION. The named operations: the queue and lock primitives (`20_memory.md` rules R83 to R92), the
register-interface primitives (`44_peripheral.md` rules R301 to R308), raising a fault and returning a result
(`00_scope.md` rule R25, `60_exceptions.md` rules R340 and R345), and the refusal mark (rule R349). -/

namespace Sys2Proof.Machine

/-! ### Queues (`20_memory.md` section 2) -/

/-- `QPush(Q, b)`: the result, and the queue after (rule R83). Both the task variant and `push_from_isr` (rules R86 and
R87). -/
def queuePush (qcap : Nat) (q : List Byte) (b : Byte) : Bool × List Byte :=
  if q.length < qcap then (true, q ++ [b]) else (false, q)

/-- `QPop(Q)`: the result, and the queue after (rule R84). -/
def queuePop : List Byte → Option Byte × List Byte
  | [] => (none, [])
  | h :: q => (some h, q)

/-- `QReset(TXQ[p])` (rule R85). -/
def Port.resetTxq (P : Port) : Port := { P with txq := [] }

/-- `QReset(RXQ[p])` (rule R85). -/
def Port.resetRxq (P : Port) : Port := { P with rxq := [] }

/-- `QPush(TXQ[p], b)`: the port after a push that succeeds, and none when TXQ is full (rules R83 and R87). -/
def Port.pushTx (P : Port) (qcap : Nat) (b : Byte) : Option Port :=
  match queuePush qcap P.txq b with
  | (true, q) => some { P with txq := q }
  | (false, _) => none

/-- `QPush(RXQ[p], b)`, its result ignored: when RXQ is full the byte is dropped (rules R83 and R268). -/
def Port.pushRx (P : Port) (qcap : Nat) (b : Byte) : Port := { P with rxq := (queuePush qcap P.rxq b).2 }

/-! ### The completion lock (`20_memory.md` section 3) -/

/-- The success step of `LockTake(p)`, and none when the lock is Taken (rules R89 and R90). -/
def Port.lockTake (P : Port) : Option Port := if P.taken then none else some { P with taken := true }

/-- `LockGive(p)`, from a task or from the handler (rules R91 and R92). -/
def Port.lockGive (P : Port) : Port := { P with taken := false }

/-! ### The register interface (`44_peripheral.md` section 1) -/

/-- `ClockEnable(p)` (rule R301). -/
def Port.clockEnable (P : Port) : Port := { P with clken := true }

/-- `ClockDisable(p)`, which "no rule of this spec performs" (rule R301). -/
def Port.clockDisable (P : Port) : Port := { P with clken := false }

/-- `ConfigureMode(p, m, br)` (rule R302). -/
def Port.configureMode (P : Port) (m : BitVec 2) (br : BitVec 3) : Port := { P with mode := m, br := br }

/-- `EnableIrq(p, S)` (rule R303). -/
def Port.enableIrq (P : Port) (S : IrqSet) : Port :=
  { P with txeie := P.txeie || S.txe, rxneie := P.rxneie || S.rxne, errie := P.errie || S.err }

/-- `DisableIrq(p, S)` (rule R303). -/
def Port.disableIrq (P : Port) (S : IrqSet) : Port :=
  { P with txeie := P.txeie && !S.txe, rxneie := P.rxneie && !S.rxne, errie := P.errie && !S.err }

/-- `{TXEIE, ERRIE}`, the causes of TRANSMIT (`41_transfer.md` rule R203). -/
def IrqSet.transmit : IrqSet := { txe := true, rxne := false, err := true }

/-- `{RXNEIE, ERRIE}`, the causes of RECEIVE (`41_transfer.md` rule R210). -/
def IrqSet.receive : IrqSet := { txe := false, rxne := true, err := true }

/-- `{TXEIE, RXNEIE, ERRIE}`. -/
def IrqSet.all : IrqSet := { txe := true, rxne := true, err := true }

/-- `Start(p)` (rule R304). -/
def Port.start (P : Port) : Port := { P with spe := true }

/-- `Stop(p)`: the bytes in TXBUF and RXBUF are discarded, and the frame in flight finishes uncaptured (rule R305). -/
def Port.stop (P : Port) : Port :=
  { P with
    spe := false
    txbuf := none
    rxbuf := none
    shift := P.shift.map fun f => { f with capture := false } }

/-- `WriteData(p, b)` with its `Log(b)` (rule R306). -/
def Port.writeData (P : Port) (b : Byte) : Port := { P with txbuf := some b, drlog := P.drlog ++ [b] }

/-- `ReadData(p)`: the byte and the port after, and none when RXBUF holds no byte (rule R307). -/
def Port.readData (P : Port) : Option (Byte × Port) := P.rxbuf.map fun m => (m, { P with rxbuf := none })

/-- `QueryCauses(p)`, without side effect (rule R308). -/
def Port.queryCauses (P : Port) : BitVec 4 := P.cv

/-- `Emit(f)` (`00_scope.md` rule R27). -/
def Port.emit (P : Port) (f : Frame) : Port := { P with wire := P.wire ++ [f] }

/-- The record of a frame that ends now as Aborted (`40_configure.md` rule R170, `44_peripheral.md` rule R325). -/
def Port.abortedFrame (P : Port) (f : Shift) : Frame where
  mosi := f.mosi
  miso := none
  csStart := f.csStart
  csEnd := P.csLevel
  status := .aborted

/-- A frame in flight ends as Aborted: it is emitted, and SHIFT is emptied. Without one, nothing changes. -/
def Port.abortFrame (P : Port) : Port :=
  match P.shift with
  | none => P
  | some f => { P.emit (P.abortedFrame f) with shift := none }

/-- The chip-select line is driven to a level (`10_state.md` rule R52). -/
def Port.driveCs (P : Port) (level : Bool) : Port := { P with csLevel := level }

/-! ### State access (`00_scope.md` rule R25) -/

/-- `P[p] <- P'`. -/
def State.setPort (s : State) (p : Nat) (P : Port) : State := { s with ports := s.ports.set p P }

/-- `C[c] <- ctl`; the caller's stream and results are unchanged. -/
def State.setCtl (s : State) (c : Nat) (ctl : CallerState) : State :=
  { s with callers := s.callers.modify c fun C => { C with ctl := ctl } }

/-- The words caller `c` has not yet issued become `ws`. -/
def State.setStream (s : State) (c : Nat) (ws : List Word) : State :=
  { s with callers := s.callers.modify c fun C => { C with stream := ws } }

/-- Caller `c` is the one whose step runs. -/
def State.setActor (s : State) (c : Nat) : State := { s with actor := c }

/-- `return Result(code, data)`: the result goes to caller `c` alone, which is Idle again (`00_scope.md` rule R25,
`60_exceptions.md` rules R340 and R350). -/
def State.returnResult (s : State) (c : Nat) (r : CommandResult) : State :=
  { s with callers := s.callers.modify c fun C => { C with ctl := .idle, results := C.results ++ [r] } }

/-- FAULTS with one more record: a set holds it once. -/
def insertFault (faults : List FaultRecord) (r : FaultRecord) : List FaultRecord :=
  if r ∈ faults then faults else faults ++ [r]

/-- `raise Fault(kind, word0)` by caller `c`: the sticky record, and the caller Stopped; "no port state changes; no
result is returned" (`60_exceptions.md` rule R345). Every fault of the block is raised here. -/
def State.raiseFault (s : State) (kind : FaultKind) (c : Nat) (word0 : Word) : State :=
  { s with
    faults := insertFault s.faults { kind := kind, caller := c, word0 := word0 }
    callers := s.callers.modify c fun C => { C with ctl := .stopped } }

/-- `REFUSED <- true` (`60_exceptions.md` rule R349). -/
def State.refuse (s : State) : State := { s with refused := true }

/-! ### One step of a command -/

/-- Some caller other than `c` is in a phase of TRANSMIT, RECEIVE or EXCHANGE on port `p` (`40_configure.md` rule
R174). -/
def State.otherInTransfer (s : State) (c : Nat) (p : PortId) : Bool :=
  (List.range s.callers.length).any fun c' =>
    c' != c &&
      match s.callers[c']? with
      | some { ctl := .busy cmd _ _, .. } => cmd.isTransfer && cmd.port == p
      | _ => false

/-- The step caller `actor` takes of command `i`: the issuing step when it is Idle, and the step of its phase when it is
Busy with `i`. A second command of a Busy caller is refused (`60_exceptions.md` rule R349 (b)). -/
def commandStep (i : Instr) (s : State)
    (onIssue : Host.Outcome State Fault Refusal)
    (onPhase : Phase → Locals → Host.Outcome State Fault Refusal) : Host.Outcome State Fault Refusal :=
  match s.callers[s.actor]? with
  | none => .refused .noSuchCaller
  | some C =>
    match C.ctl with
    | .idle => onIssue
    | .busy cmd phase locals => if cmd = i then onPhase phase locals else .next s.refuse
    | .stopped => .refused .callerStopped

/-- The checks of every command but CONFIGURE after the encoding check, in their order: the port, then CONFIGURED
(`41_transfer.md` rule R200, `43_chip_select.md` rules R290 and R291, `60_exceptions.md` rule R351). -/
def prologue (i : Instr) (s : State) (onPass : Port → State) : State :=
  match s.ports[i.port.toNat]? with
  | none => s.returnResult s.actor (.plain .invalidArgument)
  | some P => if P.configured then onPass P else s.raiseFault .unconfigured s.actor i.word0

/-- An effect on the port an instruction names; only ports `0 .. NUM_PORTS-1` have one (`00_scope.md` rule R9). -/
def onPort (p : PortId) (s : State) (k : Port → Host.Outcome State Fault Refusal) : Host.Outcome State Fault Refusal :=
  match s.ports[p.toNat]? with
  | none => .refused .noSuchPort
  | some P => k P

end Sys2Proof.Machine
end

