-- ==== Sys2Proof/Machine/ChipSelect.lean ====
section
/-! DEFINITION. SET_CS and GET_CS (`43_chip_select.md`). -/

namespace Sys2Proof.Machine

/-- SET_CS (`43_chip_select.md` rule R290): one caller step. -/
def execSetCs (p : PortId) (level : Bool) (s : State) : Host.Outcome State Fault Refusal :=
  commandStep (.setCs p level) s
    (.next (prologue (.setCs p level) s fun P =>
      (s.setPort p.toNat (P.driveCs level)).returnResult s.actor (.plain .ok)))
    fun _ _ => .fault .phaseOfOtherCommand

/-- GET_CS (`43_chip_select.md` rule R291): one caller step; the result's LEVEL is the level the block drives. -/
def execGetCs (p : PortId) (s : State) : Host.Outcome State Fault Refusal :=
  commandStep (.getCs p) s
    (.next (prologue (.getCs p) s fun P =>
      s.returnResult s.actor { status := .ok, level := P.csLevel, data := [] }))
    fun _ _ => .fault .phaseOfOtherCommand

end Sys2Proof.Machine
end

