-- ==== Sys2Proof/Machine/Configure.lean ====
section
/-! DEFINITION. CONFIGURE (`40_configure.md`). -/

namespace Sys2Proof.Machine

/-- `Busy(p, c)` (`40_configure.md` rule R174). -/
def State.configBusy (s : State) (c : Nat) (p : PortId) (P : Port) : Bool :=
  P.configured && (P.taken || s.otherInTransfer c p)

/-- The writes of a CONFIGURE whose checks pass (`40_configure.md` rule R170): the frame in flight ends as Aborted with
the line's old level, and the port is in the configured idle state (`70_reset_and_hazards.md` rule R393). That this frame
goes to WIRE follows R170 where `10_state.md` rule R54 lets only the peripheral append to it (log entry 29, DESIGN
CHOICE). -/
def Port.configure (P : Port) (mode : BitVec 2) (br : BitVec 3) (cspin pinset : Word) : Port :=
  let P1 := ((P.abortFrame.clockEnable.configureMode mode br).disableIrq .all).driveCs true
  { P1.resetTxq.resetRxq.lockGive with
    cspin := cspin
    pinset := pinset
    spe := false
    txbuf := none
    rxbuf := none
    shift := none
    modf := false
    errf := false
    rxcnt := 0
    fill := 0
    configured := true }

/-- CONFIGURE, phase CFG1, in the check order of rule R173: port, mode, prescaler, busy (`40_configure.md` rules R170 to
R174). -/
def configureIssue (p : PortId) (mode : Byte) (baud cspin pinset : Word) (s : State) : State :=
  match s.ports[p.toNat]? with
  | none => s.returnResult s.actor (.plain .invalidArgument)
  | some P =>
    match modeOf mode with
    | none => s.returnResult s.actor (.plain .invalidArgument)
    | some m =>
      match prescale s.params (busClock s.params p.toNat) baud.toNat with
      | none => s.returnResult s.actor (.plain .invalidArgument)
      | some k =>
        if s.configBusy s.actor p P then
          s.raiseFault .configBusy s.actor (Instr.configure p mode baud cspin pinset).word0
        else
          (s.setPort p.toNat (P.configure m (BitVec.ofNat 3 (k - s.params.pmin)) cspin pinset)).returnResult s.actor
            (.plain .ok)

/-- CONFIGURE (`40_configure.md` rule R170): one caller step. -/
def execConfigure (p : PortId) (mode : Byte) (baud cspin pinset : Word) (s : State) :
    Host.Outcome State Fault Refusal :=
  commandStep (.configure p mode baud cspin pinset) s (.next (configureIssue p mode baud cspin pinset s))
    fun _ _ => .fault .phaseOfOtherCommand

end Sys2Proof.Machine
end

