-- ==== Sys2Proof/Machine/Handler.lean ====
section
/-! DEFINITION. The four branches of the interrupt handler (`42_interrupt_handler.md`). A firing saves and restores
nothing (`60_exceptions.md` rules R362 and R363): its whole effect is on its port's record. -/

namespace Sys2Proof.Machine

/-- The end of a transfer in the handler: the causes disabled, the bus stopped and the lock given, in one firing
(`42_interrupt_handler.md` rules R264 and R267). -/
def Port.completeTransfer (P : Port) (S : IrqSet) : Port := (P.disableIrq S).stop.lockGive

/-- ISR_TXE on a port record (`42_interrupt_handler.md` rules R262 to R264). -/
def Port.isrTxe (P : Port) : Port :=
  match queuePop P.txq with
  | (some b, q) => { P with txq := q }.writeData b
  | (none, _) => P.completeTransfer .transmit

/-- ISR_RXNE on a port record after its `ReadData` gave `b` (`42_interrupt_handler.md` rules R265 to R268). -/
def Port.countReceived (P : Port) (params : Params) (b : Byte) : Port :=
  let P1 := { P with rxcnt := decCount params.underflow P.rxcnt }
  if P1.rxcnt ≠ 0 then P1.pushRx params.qcap b
  else if params.enqueueFinalRx then (P1.pushRx params.qcap b).completeTransfer .receive
  else P1.completeTransfer .receive

/-- ISR_MODF on a port record (`42_interrupt_handler.md` rule R272). -/
def Port.isrModf (P : Port) : Port := { P.start with modf := false }

/-- ISR_TXE (`42_interrupt_handler.md` rule R262). -/
def execIsrTxe (p : PortId) (s : State) : Host.Outcome State Fault Refusal :=
  onPort p s fun P => .next (s.setPort p.toNat P.isrTxe)

/-- ISR_RXNE (`42_interrupt_handler.md` rule R265). A read of an empty RXBUF, which no selected firing makes, faults
(`44_peripheral.md` rule R307). -/
def execIsrRxne (p : PortId) (s : State) : Host.Outcome State Fault Refusal :=
  onPort p s fun P =>
    match P.readData with
    | some (b, P') => .next (s.setPort p.toNat (P'.countReceived s.params b))
    | none => .fault .dataRegisterEmpty

/-- ISR_MODF (`42_interrupt_handler.md` rule R272). -/
def execIsrModf (p : PortId) (s : State) : Host.Outcome State Fault Refusal :=
  onPort p s fun P => .next (s.setPort p.toNat P.isrModf)

/-- ISR_NONE (`42_interrupt_handler.md` rule R274): `skip`. -/
def execIsrNone (p : PortId) (s : State) : Host.Outcome State Fault Refusal :=
  onPort p s fun _ => .next s

end Sys2Proof.Machine
end

