-- ==== Sys2Proof/Machine/Transfer.lean ====
section
/-! DEFINITION. TRANSMIT, RECEIVE and EXCHANGE (`41_transfer.md`), phase by phase: each phase is one atomic step of the
issuing caller. -/

namespace Sys2Proof.Machine

/-- Where a phase goes: on to another phase, or to the end of the transfer with a result. -/
inductive Flow where
  | goto (phase : Phase) (locals : Locals)
  | ret (result : CommandResult)
  deriving DecidableEq, Repr

/-- One phase of TRANSMIT on port record `P` (`41_transfer.md` rules R203 to R205, without TX0). A LockTake phase whose
lock is Taken takes its timeout step (`20_memory.md` rule R90). -/
def txPhase (qcap : Nat) (phase : TxPhase) (l : Locals) (P : Port) : Port × Flow :=
  match phase with
  | .tx1 =>
    match P.lockTake with
    | some P' => (P', .goto (.tx (if l.remaining = [] then .tx3 else .tx2)) l)
    | none => (P, .ret (.plain .timeout))
  | .tx2 =>
    match l.remaining with
    | [] => (P, .goto (.tx .tx3) l)
    | b :: rest =>
      match P.pushTx qcap b with
      | some P' => (P', .goto (.tx (if rest = [] then .tx3 else .tx2)) { l with remaining := rest })
      | none => (P, .goto (.tx .txf1) l)
  | .tx3 => (P.enableIrq .transmit, .goto (.tx .tx4) l)
  | .tx4 => (P.start, .goto (.tx .tx5) l)
  | .tx5 =>
    match P.lockTake with
    | some P' => (P', .goto (.tx .tx6) l)
    | none => (P, .goto (.tx .txa1) l)
  | .tx6 => (P.lockGive, .ret (.plain .ok))
  | .txf1 => (P.resetTxq, .goto (.tx .txf2) l)
  | .txf2 => (P.lockGive, .ret (.plain .resourceExhausted))
  | .txa1 => (P.disableIrq .transmit, .goto (.tx .txa2) l)
  | .txa2 => (P.stop, .goto (.tx .txa3) l)
  | .txa3 => (P.resetTxq, .goto (.tx .txa4) l)
  | .txa4 => (P.lockGive, .ret (.plain .timeout))

/-- One phase of RECEIVE of length `n` and fill byte `f` on port record `P` (`41_transfer.md` rules R210 to R212,
without RX0). -/
def rxPhase (n : BitVec 16) (f : Byte) (phase : RxPhase) (l : Locals) (P : Port) : Port × Flow :=
  match phase with
  | .rx1 =>
    match P.lockTake with
    | some P' => (P', .goto (.rx .rx2) l)
    | none => (P, .ret (.plain .timeout))
  | .rx2 => ({ P with rxcnt := n, fill := f }, .goto (.rx .rx3) l)
  | .rx3 => (P.enableIrq .receive, .goto (.rx .rx4) l)
  | .rx4 => (P.start, .goto (.rx .rx5) l)
  | .rx5 =>
    match P.lockTake with
    | some P' => (P', .goto (.rx .rx6) l)
    | none => (P, .goto (.rx .rxa1) l)
  | .rx6 => (P.resetRxq, .goto (.rx .rx7) { l with data := P.rxq })
  | .rx7 => (P.lockGive, .ret { status := .ok, level := false, data := l.data })
  | .rxa1 => (P.disableIrq .receive, .goto (.rx .rxa2) l)
  | .rxa2 => (P.stop, .goto (.rx .rxa3) l)
  | .rxa3 => (P.resetRxq, .goto (.rx .rxa4) l)
  | .rxa4 => (P.lockGive, .ret (.plain .timeout))

/-- The flow of EXCHANGE after a phase of its inner TRANSMIT: the RECEIVE follows an OK, and EX5 anything else
(`41_transfer.md` rules R220, EX2 and EX3, and R221). -/
def exchangeAfterTx (l : Locals) : Flow → Flow
  | .goto phase l' => .goto phase l'
  | .ret r =>
    if r.status = .ok then .goto (.rx .rx1) { l with sub := .ok }
    else .goto .ex5 { l with sub := r.status, data := [] }

/-- The flow of EXCHANGE after a phase of its inner RECEIVE: EX5 follows its end (`41_transfer.md` rules R220 and
R221). -/
def exchangeAfterRx (l : Locals) : Flow → Flow
  | .goto phase l' => .goto phase l'
  | .ret r => .goto .ex5 { l with sub := r.status, data := r.data }

/-- One phase of EXCHANGE with receive length `n` on port record `P` (`41_transfer.md` rules R220 and R221, without
EX0); the inner RECEIVE's fill byte is 0x00. -/
def exPhase (qcap : Nat) (n : BitVec 16) (phase : Phase) (l : Locals) (P : Port) : Port × Flow :=
  match phase with
  | .ex1 => (P.driveCs false, .goto (.tx .tx1) l)
  | .tx t =>
    let r := txPhase qcap t l P
    (r.1, exchangeAfterTx l r.2)
  | .rx t =>
    let r := rxPhase n 0 t l P
    (r.1, exchangeAfterRx l r.2)
  | .ex5 => (P.driveCs true, .ret { status := l.sub, level := false, data := l.data })

/-- The temporaries of a command that has just been issued. -/
def Locals.start (payload : List Byte) : Locals where
  remaining := payload
  sub := .ok
  data := []

/-- The caller's record after a phase. -/
def State.follow (s : State) (c : Nat) (cmd : Instr) : Flow → State
  | .goto phase l => s.setCtl c (.busy cmd phase l)
  | .ret r => s.returnResult c r

/-- The effect of one phase: the port record and the caller's record change in one step (`00_scope.md` rule R28). -/
def phaseEffect (cmd : Instr) (s : State) (effect : Port → Port × Flow) : Host.Outcome State Fault Refusal :=
  onPort cmd.port s fun P =>
    .next ((s.setPort cmd.port.toNat (effect P).1).follow s.actor cmd (effect P).2)

/-- TRANSMIT (`41_transfer.md` rule R203): TX0 in the issuing step, then a phase a step. -/
def execTransmit (p : PortId) (payload : List Byte) (s : State) : Host.Outcome State Fault Refusal :=
  commandStep (.transmit p payload) s
    (.next (prologue (.transmit p payload) s fun _ =>
      s.setCtl s.actor (.busy (.transmit p payload) (.tx .tx1) (.start payload))))
    fun phase l =>
      match phase with
      | .tx t => phaseEffect (.transmit p payload) s (txPhase s.params.qcap t l)
      | .rx _ => .fault .phaseOfOtherCommand
      | .ex1 => .fault .phaseOfOtherCommand
      | .ex5 => .fault .phaseOfOtherCommand

/-- RECEIVE (`41_transfer.md` rule R210): RX0 in the issuing step, then a phase a step. -/
def execReceive (p : PortId) (len : BitVec 16) (fill : Byte) (s : State) : Host.Outcome State Fault Refusal :=
  commandStep (.receive p len fill) s
    (.next (prologue (.receive p len fill) s fun _ =>
      s.setCtl s.actor (.busy (.receive p len fill) (.rx .rx1) (.start []))))
    fun phase l =>
      match phase with
      | .rx t => phaseEffect (.receive p len fill) s (rxPhase len fill t l)
      | .tx _ => .fault .phaseOfOtherCommand
      | .ex1 => .fault .phaseOfOtherCommand
      | .ex5 => .fault .phaseOfOtherCommand

/-- EXCHANGE (`41_transfer.md` rule R220): EX0 in the issuing step, then a phase a step. -/
def execExchange (p : PortId) (payload : List Byte) (rxLen : BitVec 16) (s : State) :
    Host.Outcome State Fault Refusal :=
  commandStep (.exchange p payload rxLen) s
    (.next (prologue (.exchange p payload rxLen) s fun _ =>
      s.setCtl s.actor (.busy (.exchange p payload rxLen) .ex1 (.start payload))))
    fun phase l => phaseEffect (.exchange p payload rxLen) s (exPhase s.params.qcap rxLen phase l)

/-- The caller is in a lock-wait phase for port `p` (`10_state.md` rule R58 (b), `41_transfer.md` rule R232). -/
def CallerState.waitsOn (ctl : CallerState) (p : PortId) : Bool :=
  match ctl with
  | .busy cmd (.tx .tx1) _ => cmd.port == p
  | .busy cmd (.tx .tx5) _ => cmd.port == p
  | .busy cmd (.rx .rx1) _ => cmd.port == p
  | .busy cmd (.rx .rx5) _ => cmd.port == p
  | _ => false

end Sys2Proof.Machine
end

