-- ==== Sys2Proof/Machine/Dispatch.lean ====
section
/-! DEFINITION. The meaning of each instruction: one arm per constructor. -/

namespace Sys2Proof.Machine

def exec (i : Instr) (s : State) : Host.Outcome State Fault Refusal :=
  match i with
  | .configure port mode baud cspin pinset => Sys2Proof.Machine.execConfigure port mode baud cspin pinset s
  | .transmit port payload => Sys2Proof.Machine.execTransmit port payload s
  | .receive port len fill => Sys2Proof.Machine.execReceive port len fill s
  | .exchange port payload rxLen => Sys2Proof.Machine.execExchange port payload rxLen s
  | .setCs port level => Sys2Proof.Machine.execSetCs port level s
  | .getCs port => Sys2Proof.Machine.execGetCs port s
  | .isrTxe port => Sys2Proof.Machine.execIsrTxe port s
  | .isrRxne port => Sys2Proof.Machine.execIsrRxne port s
  | .isrModf port => Sys2Proof.Machine.execIsrModf port s
  | .isrNone port => Sys2Proof.Machine.execIsrNone port s

end Sys2Proof.Machine
end

