-- ==== Sys2Proof/Machine/Peripheral.lean ====
section
/-! DEFINITION. The shift engine, agent `PERIPH p`, and the bus events of `ENV` (`44_peripheral.md` section 2). -/

namespace Sys2Proof.Machine

/-- `Load(p)` of the byte `b` in TXBUF (`44_peripheral.md` rule R320). -/
def Port.load (P : Port) (b : Byte) : Port :=
  { P with
    shift := some { mosi := b, capture := P.rxneie, csStart := P.csLevel }
    txbuf := none }

/-- `Fill(p)` (`44_peripheral.md` rule R321). -/
def Port.fillFrame (P : Port) : Port :=
  { P with shift := some { mosi := P.fill, capture := true, csStart := P.csLevel } }

/-- `Capture(p, m)`; when RXBUF holds a byte, the overrun (`44_peripheral.md` rules R323 and R324). -/
def Port.capture (P : Port) (m : Byte) : Port :=
  match P.rxbuf with
  | none => { P with rxbuf := some m }
  | some _ => { P with errf := true }

/-- The record of the frame `f` that completes now with the drawn byte `m` (`44_peripheral.md` rule R322). -/
def Port.completeFrame (P : Port) (f : Shift) (m : Byte) : Frame where
  mosi := f.mosi
  miso := if f.capture then some m else none
  csStart := f.csStart
  csEnd := P.csLevel
  status := .complete

/-- `Complete(p)` of the frame `f` in SHIFT with the drawn byte `m` (`44_peripheral.md` rule R322). -/
def Port.complete (P : Port) (f : Shift) (m : Byte) : Port :=
  let P1 := if f.capture then P.capture m else P
  { P1.emit (P1.completeFrame f m) with shift := none }

/-- `Load(p)` is enabled (`44_peripheral.md` rule R320). -/
def Port.loadEnabled (P : Port) : Bool := P.clken && P.spe && P.txbuf.isSome && P.shift.isNone

/-- `Fill(p)` is enabled (`44_peripheral.md` rule R321). -/
def Port.fillEnabled (P : Port) : Bool :=
  P.clken && P.spe && P.rxneie && P.txbuf.isNone && P.shift.isNone && P.rxbuf.isNone

/-- `Complete(p)` is enabled, whatever SPE is (`44_peripheral.md` rule R322). -/
def Port.completeEnabled (P : Port) : Bool := P.clken && P.shift.isSome

/-- The step of `PERIPH p` with the drawn byte `m`, and none when no step is enabled. At most one of Load, Fill and
Complete is enabled at a time. -/
def Port.periphStep (P : Port) (m : Byte) : Option Port :=
  if P.clken then
    match P.shift with
    | some f => some (P.complete f m)
    | none =>
      if P.spe then
        match P.txbuf with
        | some b => some (P.load b)
        | none => if P.rxneie && P.rxbuf.isNone then some P.fillFrame else none
      else none
  else none

/-- BR holds a code that divides by a representable divisor (`10_state.md` rule R36). -/
def Port.brInRange (P : Port) (params : Params) : Bool := decide (P.br.toNat ≤ params.pmax - params.pmin)

/-- `ModeFault(p)` (`44_peripheral.md` rule R325). -/
def Port.modeFault (P : Port) : Port := { P with modf := true, spe := false }.abortFrame

/-- The error event (`44_peripheral.md` rule R326). -/
def Port.busError (P : Port) : Port := { P with errf := true }

/-- A step of agent `PERIPH p`; where none is enabled, nothing happens. A frame clocked with a BR code that no rule
writes faults (`93_implementation_defined.md` I28). -/
def peripheralMove (p : Nat) (m : Byte) (s : State) : Host.Outcome State Fault Refusal :=
  match s.ports[p]? with
  | none => .next s
  | some P =>
    match P.periphStep m with
    | none => .next s
    | some P' => if P.brInRange s.params then .next (s.setPort p P') else .fault .prescalerCodeReserved

/-- A bus event of `ENV` on port `p`, enabled on a clocked port only (`44_peripheral.md` rules R325 and R326). -/
def environmentMove (p : Nat) (event : Port → Port) (s : State) : State :=
  match s.ports[p]? with
  | none => s
  | some P => if P.clken then s.setPort p (event P) else s

end Sys2Proof.Machine
end

