-- ==== Sys2Proof/Machine/Schedule.lean ====
section
/-! DEFINITION. Which agent moves next and what its step does (`00_scope.md` rules R19 to R22, `60_exceptions.md` rules
R349 and R360 to R364), and how an instruction's words are placed where the next step fetches. A move whose agent has
no enabled step changes nothing (log entry 2). -/

namespace Sys2Proof.Machine

/-! ### The steps of the agents -/

/-- A caller step is enabled only when no port has a pending cause (`60_exceptions.md` rule R360), for a caller that is
Busy, or Idle with a command left to issue. -/
def State.callerEnabled (s : State) (c : Nat) : Bool :=
  !s.anyPending &&
    match s.callers[c]? with
    | none => false
    | some C =>
      match C.ctl with
      | .idle => !C.stream.isEmpty
      | .busy _ _ _ => true
      | .stopped => false

/-- A step of `CALLER c`: when Idle it issues the next command of its stream, whole (`30_encoding.md` rule R130), and an
illegal one raises ILLEGAL_COMMAND (rule R144); when Busy it takes its phase. -/
def callerMove (c : Nat) (s : State) : Host.Outcome State Fault Refusal :=
  if s.callerEnabled c then
    match s.callers[c]? with
    | none => .next s
    | some C =>
      match C.ctl with
      | .busy cmd _ _ => exec cmd (s.setActor c)
      | .stopped => .next s
      | .idle =>
        match decodeCommand C.stream with
        | .ok (i, rest) => exec i ((s.setActor c).setStream c rest)
        | .error _ => .next ((s.setActor c).raiseFault .illegalCommand c (C.stream.headD 0))
  else .next s

/-- A firing of `ISR p`: the one branch that the cause vector selects, and nothing when it selects none
(`42_interrupt_handler.md` rules R260 and R261). -/
def isrMove (p : Nat) (s : State) : Host.Outcome State Fault Refusal :=
  match s.ports[p]? with
  | none => .next s
  | some P =>
    match decodeCause (BitVec.ofNat 4 p) P.queryCauses with
    | some i => exec i s
    | none => .next s

/-- A command issued from interrupt context is refused; interrupt context exists while a firing is due
(`60_exceptions.md` rules R349 (a) and R366). -/
def callFromInterruptMove (p : Nat) (s : State) : State :=
  match s.ports[p]? with
  | none => s
  | some P => if P.pending then s.refuse else s

/-- A second command of a Busy caller is refused (`60_exceptions.md` rule R349 (b)). -/
def callWhileBusyMove (c : Nat) (s : State) : State :=
  match s.callers[c]? with
  | none => s
  | some C =>
    match C.ctl with
    | .idle => s
    | .busy _ _ _ => s.refuse
    | .stopped => s

/-- The effect of a move. -/
def runMove (m : Move) (s : State) : Host.Outcome State Fault Refusal :=
  match m with
  | .caller c => callerMove c s
  | .isr p => isrMove p s
  | .periph p miso => peripheralMove p miso s
  | .modeFault p => .next (environmentMove p Port.modeFault s)
  | .busError p => .next (environmentMove p Port.busError s)
  | .callFromInterrupt p => .next (callFromInterruptMove p s)
  | .callWhileBusy c => .next (callWhileBusyMove c s)

/-! ### The next move -/

/-- The move that comes next: the host's, and a free one when the host has decided none. -/
def State.nextMove (s : State) : Move :=
  match s.agenda with
  | m :: _ => m
  | [] => Config.freeMove s.draws

/-- The state once its next move is taken off. -/
def State.takeMove (s : State) : State :=
  match s.agenda with
  | _ :: rest => { s with agenda := rest }
  | [] => { s with draws := s.draws + 1 }

/-- One step of the block: a refused run takes none, a model with a parameter out of range is refused
(`60_exceptions.md` rule R349), and otherwise the next move is taken. -/
def nextStep (s : State) : Host.Outcome State Fault Refusal :=
  if s.refused then .refused .runRefused
  else if s.paramsInRange then runMove s.nextMove s.takeMove
  else .next s.refuse

/-! ### Placing an instruction (log entry 12) -/

/-- The port with no cause pending: a pending port's enables are cleared. -/
def Port.quiet (P : Port) : Port := if P.pending then P.disableIrq .all else P

/-- The port with the cause vector `cv`: each cause's flag and enable are set as `cv` says. -/
def Port.withCauses (P : Port) (cv : BitVec 4) : Port :=
  { P with
    txeie := cv.getLsbD 0
    txbuf := none
    rxneie := cv.getLsbD 1
    rxbuf := if cv.getLsbD 1 then some (P.rxbuf.getD 0) else none
    errie := cv.getLsbD 2 || cv.getLsbD 3
    modf := cv.getLsbD 2
    errf := cv.getLsbD 3 }

/-- The state whose next step fetches and runs the row's instruction: a command is the first of caller 0's stream, and a
handler branch is what port 0's cause vector selects. -/
def placeTableWord (s : State) (nbits w : Nat) : State :=
  if isCauseRow nbits w then
    { s with
      ports := s.ports.modify 0 fun P => P.withCauses (BitVec.ofNat 4 w)
      refused := false
      agenda := .isr 0 :: s.agenda }
  else
    { s with
      ports := s.ports.map Port.quiet
      callers := s.callers.modify 0 fun C => { C with ctl := .idle, stream := tableWords w }
      refused := false
      agenda := .caller 0 :: s.agenda }

end Sys2Proof.Machine
end

