-- ==== Sys2Proof/Machine/Step.lean ====
section
/-! DEFINITION. One step of the block. Everything it does is in `Schedule.lean`. -/

namespace Sys2Proof.Machine

/-- One step of the block: the step of the agent whose move is next. -/
def step (s : State) : Host.Outcome State Fault Refusal := nextStep s

/-- The state with the opcode-table row's instruction placed where the next step fetches (log entry 12). -/
def State.withFetchWord (s : State) (nbits w : Nat) : State := placeTableWord s nbits w

end Sys2Proof.Machine
end

