-- ==== Sys2Proof/Machine/Assembler.lean ====
section
/-! DEFINITION. The assembler syntax and the pseudo-instructions (`30_encoding.md` rules R152 and R153): the words that
a line of text stands for. No step of the machine reads them. -/

namespace Sys2Proof.Machine

/-- A line of assembler: a command, or a pseudo-instruction of rule R153. -/
inductive AsmLine where
  | command (i : Instr)
  | select (port : PortId)
  | deselect (port : PortId)
  | receiveShort (port : PortId) (len : BitVec 16)
  | configureShort (port : PortId) (mode : Byte) (baud : Word)
  deriving DecidableEq, Repr

/-- The command a line expands to (rule R153). -/
def AsmLine.expand : AsmLine → Instr
  | .command i => i
  | .select k => .setCs k false
  | .deselect k => .setCs k true
  | .receiveShort k n => .receive k n 0
  | .configureShort k m b => .configure k m b 0 0

/-! ### Tokens -/

/-- A token of a line: a word of letters and digits, or a mark. -/
inductive AsmToken where
  | word (cs : List Char)
  | comma
  | openList
  | closeList
  deriving DecidableEq, Repr

/-- The tokens with the word read so far, if any, before them. -/
def flushWord (acc : List Char) (rest : List AsmToken) : List AsmToken :=
  if acc = [] then rest else .word acc.reverse :: rest

/-- The tokens of a line, given the letters of the word being read, the last one first. A `;` begins a comment, as in
the programs of `95_test_vectors.md`. -/
def tokens : List Char → List Char → List AsmToken
  | acc, [] => flushWord acc []
  | acc, c :: cs =>
    if c = ';' then flushWord acc []
    else if c = ' ' then flushWord acc (tokens [] cs)
    else if c = ',' then flushWord acc (.comma :: tokens [] cs)
    else if c = '[' then flushWord acc (.openList :: tokens [] cs)
    else if c = ']' then flushWord acc (.closeList :: tokens [] cs)
    else tokens (c :: acc) cs

/-! ### Numbers: "decimal, or hexadecimal with `0x`" (rule R152) -/

/-- The value of a digit in a base up to 16. -/
def digitOf (base : Nat) (c : Char) : Option Nat :=
  let v :=
    if '0' ≤ c ∧ c ≤ '9' then some (c.toNat - '0'.toNat)
    else if 'a' ≤ c ∧ c ≤ 'f' then some (c.toNat - 'a'.toNat + 10)
    else if 'A' ≤ c ∧ c ≤ 'F' then some (c.toNat - 'A'.toNat + 10)
    else none
  v.filter (fun d => d < base)

/-- The number that digits stand for, after the value read so far. -/
def digitsOf (base : Nat) : Nat → List Char → Option Nat
  | v, [] => some v
  | v, c :: cs =>
    match digitOf base c with
    | some d => digitsOf base (v * base + d) cs
    | none => none

/-- A number, with any leading zeros (log entry 18). -/
def numberOf : List Char → Option Nat
  | [] => none
  | '0' :: 'x' :: c :: cs => digitsOf 16 0 (c :: cs)
  | c :: cs => digitsOf 10 0 (c :: cs)

/-- A number token below `2^n`. -/
def fieldOf (n : Nat) : AsmToken → Option (BitVec n)
  | .word cs => ((numberOf cs).filter (fun v => v < 2 ^ n)).map (BitVec.ofNat n)
  | .comma => none
  | .openList => none
  | .closeList => none

/-- A port, "written `p0` to `p15`" (rule R152). That leading zeros are taken, `p015` as port 15, is the model's choice
(log entry 18). -/
def portTokenOf : AsmToken → Option PortId
  | .word ('p' :: cs) => ((digitsOf 10 0 cs).filter (fun v => cs ≠ [] ∧ v < 16)).map (BitVec.ofNat 4)
  | _ => none

/-- The bytes after the first of a list, to its end, and the tokens after it. -/
def moreBytes : List AsmToken → Option (List Byte × List AsmToken)
  | .closeList :: rest => some ([], rest)
  | .comma :: t :: rest =>
    match fieldOf 8 t, moreBytes rest with
    | some b, some (bs, after) => some (b :: bs, after)
    | _, _ => none
  | _ => none

/-- A byte list, `[b0, b1, ...]` or `[]` (rule R152). -/
def byteListOf : List AsmToken → Option (List Byte × List AsmToken)
  | .openList :: .closeList :: rest => some ([], rest)
  | .openList :: t :: rest =>
    match fieldOf 8 t, moreBytes rest with
    | some b, some (bs, after) => some (b :: bs, after)
    | _, _ => none
  | _ => none

/-! ### Lines (rules R152 and R153) -/

/-- The operands of CONFIGURE. -/
def configureLine (k : PortId) : List AsmToken → Option AsmLine
  | [.comma, m, .comma, b] => do return .configureShort k (← fieldOf 8 m) (← fieldOf 32 b)
  | [.comma, m, .comma, b, .comma, cs, .comma, ps] => do
    return .command (.configure k (← fieldOf 8 m) (← fieldOf 32 b) (← fieldOf 32 cs) (← fieldOf 32 ps))
  | _ => none

/-- The operands of TRANSMIT. -/
def transmitLine (k : PortId) : List AsmToken → Option AsmLine
  | .comma :: ts =>
    match byteListOf ts with
    | some (bs, []) => some (.command (.transmit k bs))
    | _ => none
  | _ => none

/-- The operands of RECEIVE. -/
def receiveLine (k : PortId) : List AsmToken → Option AsmLine
  | [.comma, n] => do return .receiveShort k (← fieldOf 16 n)
  | [.comma, n, .comma, f] => do return .command (.receive k (← fieldOf 16 n) (← fieldOf 8 f))
  | _ => none

/-- The operands of EXCHANGE. -/
def exchangeLine (k : PortId) : List AsmToken → Option AsmLine
  | .comma :: ts =>
    match byteListOf ts with
    | some (bs, [.comma, n]) => do return .command (.exchange k bs (← fieldOf 16 n))
    | _ => none
  | _ => none

/-- The operands of SET_CS; its level is a number of value 0 or 1 (log entry 18). -/
def setCsLine (k : PortId) : List AsmToken → Option AsmLine
  | [.comma, v] => do return .command (.setCs k ((← fieldOf 1 v) == 1))
  | _ => none

/-- The line whose mnemonic is `name` and whose operands follow port `k`. -/
def lineOf (name : List Char) (k : PortId) (operands : List AsmToken) : Option AsmLine :=
  if name = "CONFIGURE".toList then configureLine k operands
  else if name = "TRANSMIT".toList then transmitLine k operands
  else if name = "RECEIVE".toList then receiveLine k operands
  else if name = "EXCHANGE".toList then exchangeLine k operands
  else if name = "SET_CS".toList then setCsLine k operands
  else if name = "GET_CS".toList ∧ operands = [] then some (.command (.getCs k))
  else if name = "SELECT".toList ∧ operands = [] then some (.select k)
  else if name = "DESELECT".toList ∧ operands = [] then some (.deselect k)
  else none

/-- The line a text stands for. -/
def parseLine (text : String) : Option AsmLine :=
  match tokens [] text.toList with
  | .word name :: p :: operands =>
    match portTokenOf p with
    | some k => lineOf name k operands
    | none => none
  | _ => none

/-- The words a text stands for: "The assembler computes LEN and TXLEN from the byte lists and packs the payload"
(rule R152). A payload too long for its length field has none. -/
def assemble (text : String) : Option (List Word) :=
  match parseLine text with
  | some line => if line.expand.WellFormed then some (encodeCommand line.expand) else none
  | none => none

end Sys2Proof.Machine
end

