-- ==== Sys2Proof/Safety.lean ====
section
/-! DEFINITION. The terms that claims use: the named states and premises of `70_reset_and_hazards.md` (rules R393, R430
and R431), the fairness of the agents (`20_memory.md` rule R93, `44_peripheral.md` rule R327, `60_exceptions.md` rule
R361), and the invariants of the machine. -/

namespace Sys2Proof.Machine

/-! ### The acting caller and the named port -/

/-- The acting caller is Idle. -/
def State.actorIdle (s : State) : Prop := ∃ C, s.callers[s.actor]? = some C ∧ C.ctl = .idle

/-- The acting caller is Busy with command `i` at phase `phase`. -/
def State.actorBusy (s : State) (i : Instr) (phase : Phase) (l : Locals) : Prop :=
  ∃ C, s.callers[s.actor]? = some C ∧ C.ctl = .busy i phase l

/-- `P[p]` is the record `P`. -/
abbrev State.hasPort (s : State) (p : PortId) (P : Port) : Prop := s.ports[p.toNat]? = some P

/-- The command caller `c` runs, or issues next: none when it is Stopped, has none left, or its next one is illegal. -/
def State.commandOf (s : State) (c : Nat) : Option Instr :=
  match s.callers[c]? with
  | none => none
  | some C =>
    match C.ctl with
    | .busy cmd _ _ => some cmd
    | .stopped => none
    | .idle =>
      match decodeCommand C.stream with
      | .ok (i, _) => some i
      | .error _ => none

/-- The port that the next move names: that of the caller's command, or that of the agent. -/
def State.namedPort (s : State) : Option Nat :=
  match s.nextMove with
  | .caller c => (s.commandOf c).map fun i => i.port.toNat
  | .isr p => some p
  | .periph p _ => some p
  | .modeFault p => some p
  | .busError p => some p
  | .callFromInterrupt _ => none
  | .callWhileBusy _ => none

/-! ### Named states (`70_reset_and_hazards.md` rules R393 and R431) -/

/-- The configured idle state, apart from WIRE and DRLOG (rule R393). -/
def Port.configuredIdle (P : Port) (mode : BitVec 2) (br : BitVec 3) (cspin pinset : Word) : Prop :=
  P.configured = true ∧ P.clken = true ∧ P.mode = mode ∧ P.br = br ∧ P.spe = false ∧
    P.txeie = false ∧ P.rxneie = false ∧ P.errie = false ∧ P.txbuf = none ∧ P.rxbuf = none ∧ P.shift = none ∧
    P.modf = false ∧ P.errf = false ∧ P.rxcnt = 0 ∧ P.fill = 0 ∧ P.txq = [] ∧ P.rxq = [] ∧ P.taken = false ∧
    P.csLevel = true ∧ P.cspin = cspin ∧ P.pinset = pinset

/-- A final state, the end of a run (rule R431). -/
def State.final (s : State) : Prop :=
  (∀ C ∈ s.callers, C.ctl = .idle ∧ C.stream = []) ∧
    (∀ P ∈ s.ports, P.pending = false ∧ P.shift = none ∧ P.txbuf = none) ∧ s.faults = [] ∧ s.refused = false

/-! ### Runs, premises and fairness -/

/-- The first `n` steps of a run: each state is the next of the one before it. -/
def isRunTo (run : Nat → State) (n : Nat) : Prop := ∀ k, k < n → step (run k) = .next (run (k + 1))

/-- An infinite run. -/
def isRun (run : Nat → State) : Prop := ∀ k, step (run k) = .next (run (k + 1))

/-- The next step takes the next move. -/
def State.takesMove (s : State) : Prop := s.refused = false ∧ s.paramsInRange = true

/-- In the next step caller `c`, Idle and not held back, issues a command, legal or not, whose word 0 is `w`. A command
that only waits in a caller's stream is not issued. -/
def State.issues (s : State) (c : Nat) (w : Word) : Prop :=
  s.takesMove ∧ s.nextMove = .caller c ∧ s.callerEnabled c = true ∧
    ∃ C, s.callers[c]? = some C ∧ C.ctl = .idle ∧ C.stream.head? = some w

/-- In the next step caller `c` issues a command naming port `p`: the PORT field of its word 0 (`30_encoding.md` rule
R132), which an illegal command has too (rule R131, log entry 28). -/
def State.issuesOn (s : State) (c p : Nat) : Prop := ∃ w, s.issues c w ∧ (portOf w).toNat = p

/-- In the next step no caller but `c` issues a command naming port `p`. -/
def State.soleUser (s : State) (p c : Nat) : Prop := ∀ c', s.issuesOn c' p → c' = c

/-- `SingleCaller(p)` of the first `n` steps of a run: at most one caller issues commands naming port `p` in them
(`70_reset_and_hazards.md` rule R430). -/
def singleCaller (run : Nat → State) (n p : Nat) : Prop := ∃ c, ∀ k, k < n → (run k).soleUser p c

/-- In the next step ENV takes a bus event on port `p`; it can on a clocked port only (`44_peripheral.md` rules R325 and
R326). -/
def State.takesBusEvent (s : State) (p : Nat) : Prop :=
  s.takesMove ∧ (s.nextMove = .modeFault p ∨ s.nextMove = .busError p) ∧
    ∃ P, s.ports[p]? = some P ∧ P.clken = true

/-- `NoBusFaults(p)` of the first `n` steps of a run (`70_reset_and_hazards.md` rule R430). -/
def noBusFaults (run : Nat → State) (n p : Nat) : Prop := ∀ k, k < n → ¬(run k).takesBusEvent p

/-- `NoFault` (rule R430). -/
def State.noFault (s : State) : Prop := s.faults = [] ∧ s.refused = false

/-- Port `p` is in the configured idle state of rule R393, apart from WIRE and DRLOG, with BR the code of a baud rate
that CONFIGURE accepts. -/
def State.configuredIdle (s : State) (p : PortId) : Prop :=
  ∃ (P : Port) (mode : BitVec 2) (baud : Word) (k : Nat) (cspin pinset : Word), s.hasPort p P ∧
    prescale s.params (busClock s.params p.toNat) baud.toNat = some k ∧
    P.configuredIdle mode (BitVec.ofNat 3 (k - s.params.pmin)) cspin pinset

/-- `CleanEntry(p)` (`70_reset_and_hazards.md` rule R430). -/
def State.cleanEntry (s : State) (p : PortId) : Prop :=
  s.configuredIdle p ∧ ∀ C ∈ s.callers, ∀ cmd phase l, C.ctl = .busy cmd phase l → cmd.port ≠ p

/-- Step `k` of the run issues the first command that names port `p`, and it is a CONFIGURE that returns OK. -/
def configuresFirst (run : Nat → State) (p : PortId) (k : Nat) : Prop :=
  (∀ j, j < k → ∀ c, ¬(run j).issuesOn c p.toNat) ∧
    ∃ (c : Nat) (w : Word) (C C' : Caller) (mode : Byte) (baud cspin pinset : Word) (rest : List Word),
      (run k).issues c w ∧ (run k).callers[c]? = some C ∧
      decodeCommand C.stream = .ok (.configure p mode baud cspin pinset, rest) ∧
      (run (k + 1)).callers[c]? = some C' ∧ C'.results = C.results ++ [.plain .ok]

/-- `Configured(p)`: the first command naming port `p` in the run is a CONFIGURE that returns OK
(`70_reset_and_hazards.md` rule R430). -/
def configured (run : Nat → State) (p : PortId) : Prop := ∃ k, configuresFirst run p k

/-- The steps whose fairness the spec states: the two steps of a lock wait (rule R93), a firing (rule R361), and the
three steps of the shift engine (rule R327). -/
inductive FairStep where
  | lockSuccess (c : Nat)
  | lockTimeout (c : Nat)
  | firing (p : Nat)
  | load (p : Nat)
  | fill (p : Nat)
  | complete (p : Nat)
  deriving DecidableEq, Repr

/-- Caller `c` waits on its port's lock and its caller steps are enabled; the lock's value is `taken`. -/
def State.waitsAt (s : State) (c : Nat) (taken : Bool) : Prop :=
  s.callerEnabled c = true ∧
    ∃ C P cmd phase l, s.callers[c]? = some C ∧ C.ctl = .busy cmd phase l ∧ C.ctl.waitsOn cmd.port = true ∧
      s.hasPort cmd.port P ∧ P.taken = taken

/-- The step is enabled. -/
def FairStep.enabled (s : State) : FairStep → Prop
  | .lockSuccess c => s.waitsAt c false
  | .lockTimeout c => s.waitsAt c true
  | .firing p => ∃ P, s.ports[p]? = some P ∧ P.pending = true
  | .load p => ∃ P, s.ports[p]? = some P ∧ P.loadEnabled = true
  | .fill p => ∃ P, s.ports[p]? = some P ∧ P.fillEnabled = true
  | .complete p => ∃ P, s.ports[p]? = some P ∧ P.completeEnabled = true

/-- The next move is one of the agent the step belongs to. -/
def FairStep.moves (m : Move) : FairStep → Prop
  | .lockSuccess c => m = .caller c
  | .lockTimeout c => m = .caller c
  | .firing p => m = .isr p
  | .load p => ∃ miso, m = .periph p miso
  | .fill p => ∃ miso, m = .periph p miso
  | .complete p => ∃ miso, m = .periph p miso

/-- The run is weakly fair: a step that stays enabled from some point on is taken again and again. -/
def weaklyFair (run : Nat → State) : Prop :=
  ∀ f : FairStep, (∃ n, ∀ k, n ≤ k → f.enabled (run k)) →
    ∀ n, ∃ k, n ≤ k ∧ f.enabled (run k) ∧ f.moves (run k).nextMove

/-! ### The invariant of every step -/

/-- A port record keeps its bounds: both queues within QCAP (`20_memory.md` rule R82), a BR code that CONFIGURE writes
(`10_state.md` rule R36), the clock on exactly when configured (rules R34 and R40), and before CONFIGURE nothing but
the reset values (`60_exceptions.md` rule R347). -/
structure Port.Sound (params : Params) (P : Port) : Prop where
  txqFits : P.txq.length ≤ params.qcap
  rxqFits : P.rxq.length ≤ params.qcap
  brFits : P.br.toNat ≤ params.pmax - params.pmin
  clockOn : P.clken = P.configured
  untouched : P.configured = false → P = Port.reset P.csLevel

/-- A phase belongs to a command (`41_transfer.md` rules R203, R210 and R220). -/
def Phase.fits : Phase → Instr → Bool
  | .tx _, .transmit _ _ => true
  | .rx _, .receive _ _ _ => true
  | _, .exchange _ _ _ => true
  | _, _ => false

/-- The whole payload has been pushed, and no push has failed: the phases of TRANSMIT from TX3 on, and its abandon
(`41_transfer.md` rules R203 and R205). -/
def Phase.allPushed : Phase → Bool
  | .tx .tx3 => true
  | .tx .tx4 => true
  | .tx .tx5 => true
  | .tx .tx6 => true
  | .tx .txa1 => true
  | .tx .txa2 => true
  | .tx .txa3 => true
  | .tx .txa4 => true
  | _ => false

/-- The bytes still to push are the end of the command's payload (`10_state.md` rule R32). -/
def Locals.endsPayload (l : Locals) : Instr → Prop
  | .transmit _ payload => l.remaining <:+ payload
  | .exchange _ payload _ => l.remaining <:+ payload
  | _ => l.remaining = []

/-- A result has at most QCAP bytes, none unless OK, and LEVEL 0 with any (`30_encoding.md` rules R145 and R147). -/
def CommandResult.sound (qcap : Nat) (r : CommandResult) : Prop :=
  r.data.length ≤ qcap ∧ (r.data ≠ [] → r.status = .ok ∧ r.level = false)

/-- A Busy caller runs a well-formed transfer on a configured port, in a phase of it, with temporaries of it; no byte is
left to push once TX2 is over, and bytes are collected only after RX6 and only for an OK. -/
structure BusySound (s : State) (cmd : Instr) (phase : Phase) (l : Locals) : Prop where
  transfer : cmd.isTransfer = true
  wellFormed : cmd.WellFormed
  onConfigured : ∃ P, s.hasPort cmd.port P ∧ P.configured = true
  phaseFits : phase.fits cmd = true
  endsPayload : l.endsPayload cmd
  nonePending : phase.allPushed = true → l.remaining = []
  dataFits : l.data.length ≤ s.params.qcap
  dataOnlyOk : l.data ≠ [] → phase = .rx .rx7 ∨ (phase = .ex5 ∧ l.sub = .ok)

/-- The invariant of every step. -/
structure State.Inv (s : State) : Prop where
  params : s.paramsInRange = true
  ports : ∀ P ∈ s.ports, P.Sound s.params
  busy : ∀ C ∈ s.callers, ∀ cmd phase l, C.ctl = .busy cmd phase l → BusySound s cmd phase l
  results : ∀ C ∈ s.callers, ∀ r ∈ C.results, r.sound s.params.qcap
  faultsDistinct : s.faults.Nodup
  faultStops : ∀ r ∈ s.faults, ∃ C, s.callers[r.caller]? = some C ∧ C.ctl = .stopped
  stopFaulted : ∀ c C, s.callers[c]? = some C → C.ctl = .stopped → ∃ r ∈ s.faults, r.caller = c

/-! ### The invariant of a port with one user (`10_state.md` rule R59) -/

/-- No cause of the port is enabled. -/
def Port.causesOff (P : Port) : Prop := P.txeie = false ∧ P.rxneie = false ∧ P.errie = false

/-- A frame in flight, if there is one, will not be captured. -/
def Port.uncaptured (P : Port) : Prop := ∀ f, P.shift = some f → f.capture = false

/-- A frame that will be captured finds RXBUF empty: no overrun (`44_peripheral.md` rule R324). -/
def Port.noOverrun (P : Port) : Prop := ∀ f, P.shift = some f → f.capture = true → P.rxbuf = none

/-- No byte waits in TXBUF or RXBUF, and none will be captured. -/
def Port.buffersEmpty (P : Port) : Prop := P.txbuf = none ∧ P.rxbuf = none ∧ P.uncaptured

/-- The port between transactions: the lock Available, the causes disabled, the queues and the data buffers empty
(`10_state.md` rule R59); SPE may be 0 or 1, and SHIFT may hold the last transmitted frame. -/
def Port.quiescent (P : Port) : Prop :=
  P.taken = false ∧ P.causesOff ∧ P.txq = [] ∧ P.rxq = [] ∧ P.buffersEmpty

/-- A TRANSMIT is armed and not complete. -/
def Port.txArmed (P : Port) : Prop :=
  P.taken = true ∧ P.txeie = true ∧ P.rxneie = false ∧ P.errie = true ∧ P.rxq = [] ∧ P.rxbuf = none ∧ P.uncaptured

/-- A RECEIVE is armed and not complete. -/
def Port.rxArmed (P : Port) : Prop :=
  P.taken = true ∧ P.txeie = false ∧ P.rxneie = true ∧ P.errie = true ∧ P.txq = [] ∧ P.txbuf = none ∧ P.noOverrun

/-- A RECEIVE is complete: the received bytes wait in RXQ, and the lock is Available. -/
def Port.rxComplete (P : Port) : Prop :=
  P.taken = false ∧ P.causesOff ∧ P.txq = [] ∧ P.buffersEmpty

/-- What holds of a port whose one user is about to take a phase on it (`41_transfer.md` rules R203, R210 and R220). -/
def Port.atPhase (P : Port) : Phase → Prop
  | .ex1 => P.quiescent
  | .ex5 => P.quiescent
  | .tx .tx1 => P.quiescent
  | .tx .tx2 => P.taken = true ∧ P.causesOff ∧ P.rxq = [] ∧ P.buffersEmpty
  | .tx .tx3 => P.taken = true ∧ P.causesOff ∧ P.rxq = [] ∧ P.buffersEmpty
  | .tx .tx4 => P.txArmed ∨ P.quiescent
  | .tx .tx5 => P.txArmed ∨ P.quiescent
  | .tx .tx6 => P.taken = true ∧ P.causesOff ∧ P.txq = [] ∧ P.rxq = [] ∧ P.buffersEmpty
  | .tx .txf1 => P.taken = true ∧ P.causesOff ∧ P.rxq = [] ∧ P.buffersEmpty
  | .tx .txf2 => P.taken = true ∧ P.causesOff ∧ P.txq = [] ∧ P.rxq = [] ∧ P.buffersEmpty
  | .tx .txa1 => P.txArmed ∨ P.quiescent
  | .tx .txa2 => P.causesOff ∧ P.rxq = [] ∧ P.rxbuf = none ∧ P.uncaptured
  | .tx .txa3 => P.causesOff ∧ P.rxq = [] ∧ P.buffersEmpty
  | .tx .txa4 => P.causesOff ∧ P.txq = [] ∧ P.rxq = [] ∧ P.buffersEmpty
  | .rx .rx1 => P.quiescent
  | .rx .rx2 => P.taken = true ∧ P.causesOff ∧ P.txq = [] ∧ P.rxq = [] ∧ P.buffersEmpty
  | .rx .rx3 => P.taken = true ∧ P.causesOff ∧ P.txq = [] ∧ P.rxq = [] ∧ P.buffersEmpty
  | .rx .rx4 => P.rxArmed ∨ P.rxComplete
  | .rx .rx5 => P.rxArmed ∨ P.rxComplete
  | .rx .rx6 => P.taken = true ∧ P.causesOff ∧ P.txq = [] ∧ P.buffersEmpty
  | .rx .rx7 => P.taken = true ∧ P.causesOff ∧ P.txq = [] ∧ P.rxq = [] ∧ P.buffersEmpty
  | .rx .rxa1 => P.rxArmed ∨ P.rxComplete
  | .rx .rxa2 => P.causesOff ∧ P.txq = [] ∧ P.txbuf = none ∧ P.noOverrun
  | .rx .rxa3 => P.causesOff ∧ P.txq = [] ∧ P.buffersEmpty
  | .rx .rxa4 => P.causesOff ∧ P.txq = [] ∧ P.rxq = [] ∧ P.buffersEmpty

/-- The phase caller `c` is about to take on port `p`, if it is Busy there. -/
def State.phaseOn (s : State) (p c : Nat) : Option Phase :=
  match s.callers[c]? with
  | none => none
  | some C =>
    match C.ctl with
    | .busy cmd phase _ => if cmd.port.toNat = p then some phase else none
    | .idle => none
    | .stopped => none

/-- The invariant of port `p` used by caller `c` alone: no other caller is Busy on it, between `c`'s commands the port is
quiescent, and within one it is as the phase says. -/
structure State.SoleInv (s : State) (p c : Nat) : Prop where
  othersAway : ∀ c', c' ≠ c → s.phaseOn p c' = none
  portFits : ∀ P, s.ports[p]? = some P →
    match s.phaseOn p c with
    | some phase => P.atPhase phase
    | none => P.quiescent

/-! ### What a RECEIVE counts and delivers (`41_transfer.md` rule R213, `70_reset_and_hazards.md` rules R407 and R408) -/

/-- The length that a RECEIVE, or an EXCHANGE's inner one, is asked for (`41_transfer.md` rules R210 and R220). -/
def receiveLength : Instr → Option (BitVec 16)
  | .configure _ _ _ _ _ => none
  | .transmit _ _ => none
  | .receive _ len _ => some len
  | .exchange _ _ rxLen => some rxLen
  | .setCs _ _ => none
  | .getCs _ => none
  | .isrTxe _ => none
  | .isrRxne _ => none
  | .isrModf _ => none
  | .isrNone _ => none

/-- How many bytes a completed RECEIVE of length `n >= 1` delivers: all but the last, or all under ENQUEUE_FINAL_RX, and
at most QCAP of them (`41_transfer.md` rule R213 (a) and (b)). -/
def deliveredCount (params : Params) (n : BitVec 16) : Nat :=
  min (if params.enqueueFinalRx then n.toNat else n.toNat - 1) params.qcap

/-- While the receive cause is enabled, RXCNT bytes remain and RXQ holds those read, as many as fit; when it no longer
is, RXQ holds what the RECEIVE delivers. -/
def Port.counting (P : Port) (params : Params) (n : BitVec 16) : Prop :=
  (P.rxneie = true →
    1 ≤ P.rxcnt.toNat ∧ P.rxcnt.toNat ≤ n.toNat ∧ P.rxq.length = min (n.toNat - P.rxcnt.toNat) params.qcap) ∧
  (P.rxneie = false → P.rxq.length = deliveredCount params n)

/-- What has been counted when a RECEIVE of length `n >= 1` is about to take the phase. -/
def Port.counted (P : Port) (params : Params) (n : BitVec 16) (l : Locals) : Phase → Prop
  | .rx .rx3 => P.rxcnt = n
  | .rx .rx4 => P.counting params n
  | .rx .rx5 => P.counting params n
  | .rx .rx6 => P.rxq.length = deliveredCount params n
  | .rx .rx7 => l.data.length = deliveredCount params n
  | .ex5 => l.sub = .ok → l.data.length = deliveredCount params n
  | _ => True

/-- What caller `c` receives on port `p`, alone or within an EXCHANGE, is counted. -/
def State.CountInv (s : State) (p c : Nat) : Prop :=
  ∀ (C : Caller) (P : Port) (i : Instr) (phase : Phase) (l : Locals) (n : BitVec 16),
    s.callers[c]? = some C → C.ctl = .busy i phase l → i.port.toNat = p → receiveLength i = some n → n ≠ 0 →
    s.ports[p]? = some P → P.counted s.params n l phase

end Sys2Proof.Machine
end

