-- ==== Sys2Proof/Certificates/Slice0/Obligations.lean ====
section
/-! DEFINITION. The statements for the provers. -/

open Sys2Proof Sys2Proof.Machine

/-! ### Encoding (`30_encoding.md`) -/

/-- The encoding examples of `30_encoding.md`, written out from rules R131 to R142, decode to the commands beside them,
and every nonzero cause vector selects the branch of the first matching row of rule R151. -/
def Obligations.SpecWordsDecode : Prop :=
  decodeCommand [0x00000001, 0x000F4240, 0x00000000, 0x00000000] = .ok (.configure 0 0 1000000 0 0, []) ∧
  decodeCommand [0x00030002, 0x000155AA] = .ok (.transmit 0 [0xAA, 0x55, 0x01], []) ∧
  decodeCommand [0x00000012] = .ok (.transmit 1 [], []) ∧
  decodeCommand [0x00040003] = .ok (.receive 0 4 0x00, []) ∧
  decodeCommand [0x0002FF13] = .ok (.receive 1 2 0xFF, []) ∧
  decodeCommand [0x00040004, 0x00000001, 0x0000009F] = .ok (.exchange 0 [0x9F] 4, []) ∧
  decodeCommand [0x00000005] = .ok (.setCs 0 false, []) ∧
  decodeCommand [0x00000105] = .ok (.setCs 0 true, []) ∧
  decodeCommand [0x00000016] = .ok (.getCs 1, []) ∧
  decodeCause 1 0b1011 = some (.isrTxe 1) ∧
  decodeCause 1 0b1110 = some (.isrRxne 1) ∧
  decodeCause 1 0b1100 = some (.isrModf 1) ∧
  decodeCause 1 0b1000 = some (.isrNone 1)

/-- No bit of a command's encoding is dropped: decoding the words of a well-formed command, followed by any words,
gives that command and the words after it, with every operand at every value (rules R131 to R143). -/
def Obligations.DecodeOfEncode : Prop :=
  ∀ (i : Instr) (rest : List Word), i.isCommand = true → i.WellFormed →
    decodeCommand (encodeCommand i ++ rest) = .ok (i, rest)

/-- Each legal command has one sequence of words: what decodes to a command is that command's encoding, and the command
is well-formed (rules R131 to R144). -/
def Obligations.EncodeOfDecode : Prop :=
  ∀ (ws : List Word) (i : Instr) (rest : List Word), decodeCommand ws = .ok (i, rest) →
    i.isCommand = true ∧ i.WellFormed ∧ encodeCommand i ++ rest = ws

/-- A sequence of words that holds the whole command of its word 0 (rule R143) is rejected exactly when a condition of
rule R144 holds: (a) a reserved OP, (b) a reserved field of rules R136 to R141 that is not 0, or (c) a payload byte
beyond the payload's length in its last word that is not 0x00. -/
def Obligations.IllegalExactlyByTheRule : Prop :=
  ∀ (w : Word) (ws : List Word), commandLength w (ws.headD 0) ≤ ws.length + 1 →
    ((∃ e, decodeCommand (w :: ws) = .error e) ↔
      (w.extractLsb' 0 4 = 0 ∨ 7 ≤ (w.extractLsb' 0 4).toNat) ∨
      (w.extractLsb' 0 4 = 1 ∧ w.extractLsb' 16 16 ≠ 0) ∨
      (w.extractLsb' 0 4 = 2 ∧
        (w.extractLsb' 8 8 ≠ 0 ∨
          ∃ k, (w.extractLsb' 16 16).toNat ≤ k ∧ k < 4 * (((w.extractLsb' 16 16).toNat + 3) / 4) ∧
            (ws.getD (k / 4) 0).extractLsb' (8 * (k % 4)) 8 ≠ 0)) ∨
      (w.extractLsb' 0 4 = 4 ∧
        (w.extractLsb' 8 8 ≠ 0 ∨ (ws.headD 0).extractLsb' 16 16 ≠ 0 ∨
          ∃ k, ((ws.headD 0).extractLsb' 0 16).toNat ≤ k ∧
            k < 4 * ((((ws.headD 0).extractLsb' 0 16).toNat + 3) / 4) ∧
            (ws.getD (1 + k / 4) 0).extractLsb' (8 * (k % 4)) 8 ≠ 0)) ∨
      (w.extractLsb' 0 4 = 5 ∧ (w.extractLsb' 9 7 ≠ 0 ∨ w.extractLsb' 16 16 ≠ 0)) ∨
      (w.extractLsb' 0 4 = 6 ∧ w.extractLsb' 8 24 ≠ 0))

/-- A caller that issues an illegal command gains one sticky record with word 0 and is Stopped; nothing else changes
but the host's inputs and the model's own record of whose step ran (rules R345 and R346). Two clauses are the model's:
words that end before their command does are illegal too (log entry 5, DEDUCED), and the words stay in the Stopped
caller's stream (log entry 7). -/
def Obligations.IllegalCommandFaults : Prop :=
  ∀ (s : State) (c : Nat) (C : Caller) (w : Word) (ws : List Word) (e : Illegal),
    s.refused = false → s.paramsInRange = true → s.nextMove = .caller c → s.anyPending = false →
    s.callers[c]? = some C → C.ctl = .idle → C.stream = w :: ws → decodeCommand (w :: ws) = .error e →
    (⟨.illegalCommand, c, w⟩ : FaultRecord) ∉ s.faults →
    step s = .next { s.takeMove with
      actor := c
      faults := s.faults ++ [⟨.illegalCommand, c, w⟩]
      callers := s.callers.set c { C with ctl := .stopped } }

/-- Each pseudo-instruction expands to the command of rule R153, and a line of assembler stands for the words of its
command (rule R152): the nine example lines of `30_encoding.md`, and a line of each pseudo-instruction. -/
def Obligations.AssemblerLines : Prop :=
  (∀ k n m b, (AsmLine.select k).expand = .setCs k false ∧ (AsmLine.deselect k).expand = .setCs k true ∧
    (AsmLine.receiveShort k n).expand = .receive k n 0x00 ∧
    (AsmLine.configureShort k m b).expand = .configure k m b 0 0) ∧
  assemble "CONFIGURE p0, 0, 1000000, 0, 0" = some [0x00000001, 0x000F4240, 0x00000000, 0x00000000] ∧
  assemble "TRANSMIT p0, [0xAA, 0x55, 0x01]" = some [0x00030002, 0x000155AA] ∧
  assemble "TRANSMIT p1, []" = some [0x00000012] ∧
  assemble "RECEIVE p0, 4, 0x00" = some [0x00040003] ∧
  assemble "RECEIVE p1, 2, 0xFF" = some [0x0002FF13] ∧
  assemble "EXCHANGE p0, [0x9F], 4" = some [0x00040004, 0x00000001, 0x0000009F] ∧
  assemble "SET_CS p0, 0" = some [0x00000005] ∧
  assemble "SET_CS p0, 1" = some [0x00000105] ∧
  assemble "GET_CS p1" = some [0x00000016] ∧
  assemble "SELECT p0" = some [0x00000005] ∧
  assemble "DESELECT p0" = some [0x00000105] ∧
  assemble "RECEIVE p0, 4" = some [0x00040003] ∧
  assemble "CONFIGURE p0, 0, 1000000" = some [0x00000001, 0x000F4240, 0x00000000, 0x00000000]

/-! ### The dispatch of the handler (`30_encoding.md` rules R150 and R151) -/

/-- Each bit of the cause vector is its flag and its enable, and the line is asserted exactly when the vector is not 0. -/
def Obligations.CauseVectorBits : Prop :=
  ∀ P : Port,
    P.cv.getLsbD 0 = (P.txbuf.isNone && P.txeie) ∧ P.cv.getLsbD 1 = (P.rxbuf.isSome && P.rxneie) ∧
    P.cv.getLsbD 2 = (P.modf && P.errie) ∧ P.cv.getLsbD 3 = (P.errf && P.errie) ∧
    (P.pending = true ↔ P.cv ≠ 0)

/-- The branch is that of the highest-priority cause: transmit-empty, receive-not-empty, mode fault, other error; and
none when no cause is active. -/
def Obligations.FirstMatchingBranch : Prop :=
  ∀ (p : PortId) (cv : BitVec 4),
    decodeCause p cv =
      if cv.getLsbD 0 then some (.isrTxe p)
      else if cv.getLsbD 1 then some (.isrRxne p)
      else if cv.getLsbD 2 then some (.isrModf p)
      else if cv.getLsbD 3 then some (.isrNone p)
      else none

/-! ### Reset (`10_state.md` rules R61 to R63) -/

/-- At reset every port has the values of rule R61, every caller is Idle, FAULTS is empty, REFUSED is false and no
interrupt is pending (rule R62), whatever the parameters, the number of callers and the drawn chip-select levels
(rule R63). -/
def Obligations.ResetValues : Prop :=
  ∀ (params : Params) (levels : List Bool) (n : Nat),
    let s := State.resetWith params levels n
    s.ports.length = levels.length ∧ s.callers.length = n ∧ s.faults = [] ∧ s.refused = false ∧
    (∀ C ∈ s.callers, C.ctl = .idle) ∧
    (∀ P ∈ s.ports,
      P.cv = 0 ∧ P.configured = false ∧ P.mode = 0 ∧ P.br = 0 ∧ P.spe = false ∧ P.clken = false ∧
      P.cr.getLsbD 2 = true ∧ P.cr.getLsbD 7 = false ∧ P.cr.getLsbD 8 = false ∧ P.cr.getLsbD 9 = false ∧
      P.txeie = false ∧ P.rxneie = false ∧ P.errie = false ∧
      P.txbuf = none ∧ P.rxbuf = none ∧ P.shift = none ∧ P.txe = true ∧ P.rxne = false ∧ P.bsy = false ∧
      P.modf = false ∧ P.errf = false ∧ P.rxcnt = 0 ∧ P.fill = 0 ∧ P.taken = false ∧ P.txq = [] ∧ P.rxq = [] ∧
      P.cspin = 0 ∧ P.pinset = 0 ∧ P.wire = [] ∧ P.drlog = [])

/-- The reset state meets the invariants that every step keeps, for all parameters in their ranges, all drawn
chip-select levels and all numbers of callers, and for every port and caller; so State.reset, whose parameters are the
test vectors' (log entry 1, DESIGN CHOICE), meets them. -/
def Obligations.ResetMeetsInvariants : Prop :=
  (∀ (params : Params) (levels : List Bool) (n : Nat), (State.resetWith params levels n).paramsInRange = true →
    (State.resetWith params levels n).Inv ∧
      ∀ p c, (State.resetWith params levels n).SoleInv p c ∧ (State.resetWith params levels n).CountInv p c) ∧
  State.reset.Inv ∧ ∀ p c, State.reset.SoleInv p c ∧ State.reset.CountInv p c

/-! ### Registers (`10_state.md` rules R33 to R47) -/

/-- The register bank as a reader sees it: each field at its bits, the hardwired bits MSTR = 1 and LSBFIRST, DFF16 and
HALFDUP = 0 (rules R37 and R39), and every reserved bit 0 (rule R41). -/
def Obligations.RegisterBankFields : Prop :=
  ∀ P : Port,
    (P.cr.extractLsb' 0 2 = P.mode ∧ P.cr.getLsbD 2 = true ∧ P.cr.extractLsb' 3 3 = P.br ∧
      P.cr.getLsbD 6 = P.spe ∧ P.cr.extractLsb' 7 3 = 0 ∧ P.cr.getLsbD 10 = P.clken ∧ P.cr.extractLsb' 11 21 = 0) ∧
    (P.ier.getLsbD 0 = P.txeie ∧ P.ier.getLsbD 1 = P.rxneie ∧ P.ier.getLsbD 2 = P.errie ∧
      P.ier.extractLsb' 3 29 = 0) ∧
    (P.sr.getLsbD 0 = P.txbuf.isNone ∧ P.sr.getLsbD 1 = P.rxbuf.isSome ∧ P.sr.getLsbD 2 = P.modf ∧
      P.sr.getLsbD 3 = P.errf ∧ P.sr.getLsbD 4 = P.shift.isSome ∧ P.sr.extractLsb' 5 27 = 0) ∧
    (P.lockWord.getLsbD 0 = P.taken ∧ P.lockWord.extractLsb' 1 31 = 0) ∧
    (P.txqc.extractLsb' 0 16 = BitVec.ofNat 16 P.txq.length ∧ P.txqc.extractLsb' 16 16 = 0) ∧
    (P.rxqc.extractLsb' 0 16 = BitVec.ofNat 16 P.rxq.length ∧ P.rxqc.extractLsb' 16 16 = 0) ∧
    (P.csWord.getLsbD 0 = P.csLevel ∧ P.csWord.extractLsb' 1 31 = 0) ∧
    (P.cfgWord.getLsbD 0 = P.configured ∧ P.cfgWord.extractLsb' 1 31 = 0)

/-! ### Queues, lock and register interface -/

/-- QPush appends when there is room and otherwise fails with the queue unchanged, QPop takes the oldest byte, and
QReset empties (`20_memory.md` rules R83 to R85). -/
def Obligations.QueueIsBoundedFifo : Prop :=
  (∀ (n : Nat) (q : List Byte) (b : Byte), q.length < n → queuePush n q b = (true, q ++ [b])) ∧
  (∀ (n : Nat) (q : List Byte) (b : Byte), n ≤ q.length → queuePush n q b = (false, q)) ∧
  (∀ (q : List Byte) (h : Byte), queuePop (h :: q) = (some h, q)) ∧
  queuePop [] = (none, []) ∧
  (∀ P : Port, P.resetTxq = { P with txq := [] } ∧ P.resetRxq = { P with rxq := [] })

/-- The primitives of the register interface and the give of the lock have exactly the effects of `44_peripheral.md`
rules R303 to R307 and `20_memory.md` rules R91 and R92. -/
def Obligations.RegisterInterfacePrimitives : Prop :=
  ∀ P : Port,
    P.start = { P with spe := true } ∧
    P.stop = { P with
      spe := false
      txbuf := none
      rxbuf := none
      shift := P.shift.map fun f => ⟨f.mosi, false, f.csStart⟩ } ∧
    (∀ b, P.writeData b = { P with txbuf := some b, drlog := P.drlog ++ [b] }) ∧
    (∀ m, P.rxbuf = some m → P.readData = some (m, { P with rxbuf := none })) ∧
    (P.rxbuf = none → P.readData = none) ∧
    (∀ S : IrqSet, P.enableIrq S =
      { P with
        txeie := if S.txe then true else P.txeie
        rxneie := if S.rxne then true else P.rxneie
        errie := if S.err then true else P.errie }) ∧
    (∀ S : IrqSet, P.disableIrq S =
      { P with
        txeie := if S.txe then false else P.txeie
        rxneie := if S.rxne then false else P.rxneie
        errie := if S.err then false else P.errie }) ∧
    P.lockGive = { P with taken := false }

/-! ### The prescaler (`40_configure.md` rules R171 and R176) -/

/-- `Prescale(f, b)` is the least `k` with `2^k >= f div b` when `b` and `f div b` are not 0 and that `k` lies in
`[PMIN, PMAX]`, and no divisor otherwise. -/
def Obligations.PrescaleIsLeastDivisor : Prop :=
  ∀ (params : Params) (f b k : Nat), f < 2 ^ 32 →
    (prescale params f b = some k ↔
      b ≠ 0 ∧ f / b ≠ 0 ∧ f / b ≤ 2 ^ k ∧ (∀ j, f / b ≤ 2 ^ j → k ≤ j) ∧ params.pmin ≤ k ∧ k ≤ params.pmax)

/-- The bit rate `e = f / 2^k` of a representable prescaler satisfies `b/2 < e < 2b`, and `e <= b` when `b` divides
`f`. -/
def Obligations.EffectiveRateWithinOneStep : Prop :=
  ∀ (params : Params) (f b k : Nat), f < 2 ^ 32 → prescale params f b = some k →
    b * 2 ^ k < 2 * f ∧ f < 2 * b * 2 ^ k ∧ (b ∣ f → f ≤ b * 2 ^ k)

/-! ### CONFIGURE (`40_configure.md`) -/

/-- A CONFIGURE whose checks pass writes every field of rule R170 in one step, emits the frame in flight as Aborted, and
returns OK. Of the port, only the traces WIRE (but for that frame) and DRLOG survive. That the frame goes to WIRE is what
rule R393 says; that it holds against rule R54 is log entry 29. -/
def Obligations.ConfigureInitialisesPort : Prop :=
  ∀ (s : State) (p : PortId) (mode : Byte) (baud cspin pinset : Word) (P : Port) (k : Nat),
    s.actorIdle → s.hasPort p P → mode.toNat ≤ 3 →
    prescale s.params (s.params.fbus.getD p.toNat 0).toNat baud.toNat = some k →
    (P.configured = true →
      P.taken = false ∧
        ∀ c C cmd phase l, c ≠ s.actor → s.callers[c]? = some C → C.ctl = .busy cmd phase l →
          ¬(cmd.isTransfer = true ∧ cmd.port = p)) →
    exec (.configure p mode baud cspin pinset) s = .next ((s.setPort p.toNat
      { configured := true
        mode := BitVec.ofNat 2 mode.toNat
        br := BitVec.ofNat 3 (k - s.params.pmin)
        spe := false
        clken := true
        txeie := false
        rxneie := false
        errie := false
        modf := false
        errf := false
        txbuf := none
        rxbuf := none
        shift := none
        rxcnt := 0
        fill := 0
        taken := false
        csLevel := true
        cspin := cspin
        pinset := pinset
        txq := []
        rxq := []
        wire := P.wire ++ (match P.shift with
          | some f => [⟨f.mosi, none, f.csStart, P.csLevel, .aborted⟩]
          | none => [])
        drlog := P.drlog }).returnResult s.actor ⟨.ok, false, []⟩)

/-- A CONFIGURE with a bad port, a bad mode or no representable prescaler, checked in this order, returns
INVALID_ARGUMENT and changes nothing else. -/
def Obligations.ConfigureRejectsArguments : Prop :=
  ∀ (s : State) (p : PortId) (mode : Byte) (baud cspin pinset : Word), s.actorIdle →
    (s.ports.length ≤ p.toNat ∨ 3 < mode.toNat ∨
      prescale s.params (s.params.fbus.getD p.toNat 0).toNat baud.toNat = none) →
    exec (.configure p mode baud cspin pinset) s = .next (s.returnResult s.actor ⟨.invalidArgument, false, []⟩)

/-- A CONFIGURE whose arguments are valid on a busy port raises CONFIG_BUSY: the record is added, the caller is Stopped,
and no port state changes (rules R174 and R348). -/
def Obligations.ConfigureBusyFaults : Prop :=
  ∀ (s : State) (p : PortId) (mode : Byte) (baud cspin pinset : Word) (P : Port) (k : Nat),
    s.actorIdle → s.hasPort p P → mode.toNat ≤ 3 →
    prescale s.params (s.params.fbus.getD p.toNat 0).toNat baud.toNat = some k →
    P.configured = true →
    (P.taken = true ∨
      ∃ c C cmd phase l, c ≠ s.actor ∧ s.callers[c]? = some C ∧ C.ctl = .busy cmd phase l ∧
        cmd.isTransfer = true ∧ cmd.port = p) →
    exec (.configure p mode baud cspin pinset) s =
      .next (s.raiseFault .configBusy s.actor (0#16 ++ mode ++ p ++ 1#4))

/-! ### Every command but CONFIGURE -/

/-- A command other than CONFIGURE returns INVALID_ARGUMENT for a port the block does not have, and raises UNCONFIGURED,
with its word 0, for a port that was never configured; neither changes a port (rules R200, R342 and R347). -/
def Obligations.PrologueChecksPort : Prop :=
  ∀ (s : State) (i : Instr), i.isCommand = true → (∀ p m b cs ps, i ≠ .configure p m b cs ps) → s.actorIdle →
    (s.ports.length ≤ i.port.toNat →
      exec i s = .next (s.returnResult s.actor ⟨.invalidArgument, false, []⟩)) ∧
    (∀ P, s.hasPort i.port P → P.configured = false →
      exec i s = .next (s.raiseFault .unconfigured s.actor i.word0))

/-- A transfer that passes its prologue goes on to its first phase and changes no port: TX1 for TRANSMIT, RX1 for
RECEIVE, EX1 for EXCHANGE (rules R200, R203, R210 and R220). -/
def Obligations.TransfersStart : Prop :=
  ∀ (s : State) (p : PortId) (P : Port), s.actorIdle → s.hasPort p P → P.configured = true →
    (∀ payload, exec (.transmit p payload) s =
      .next (s.setCtl s.actor (.busy (.transmit p payload) (.tx .tx1) ⟨payload, .ok, []⟩))) ∧
    (∀ len fill, exec (.receive p len fill) s =
      .next (s.setCtl s.actor (.busy (.receive p len fill) (.rx .rx1) ⟨[], .ok, []⟩))) ∧
    (∀ payload len, exec (.exchange p payload len) s =
      .next (s.setCtl s.actor (.busy (.exchange p payload len) .ex1 ⟨payload, .ok, []⟩)))

/-- The phases of TRANSMIT (rules R201 to R205). -/
def Obligations.TransmitPhases : Prop :=
  ∀ (s : State) (p : PortId) (b : List Byte) (l : Locals) (P : Port), s.hasPort p P →
    let i := Instr.transmit p b
    let inPhase := fun t : TxPhase => s.actorBusy i (.tx t) l
    let goes := fun (P' : Port) (t : TxPhase) (l' : Locals) =>
      exec i s = .next ((s.setPort p.toNat P').setCtl s.actor (.busy i (.tx t) l'))
    let returns := fun (P' : Port) (status : Status) =>
      exec i s = .next ((s.setPort p.toNat P').returnResult s.actor ⟨status, false, []⟩)
    (inPhase .tx1 → P.taken = false → l.remaining = [] → goes { P with taken := true } .tx3 l) ∧
    (inPhase .tx1 → P.taken = false → l.remaining ≠ [] → goes { P with taken := true } .tx2 l) ∧
    (inPhase .tx1 → P.taken = true → exec i s = .next (s.returnResult s.actor ⟨.timeout, false, []⟩)) ∧
    (∀ h rest, inPhase .tx2 → l.remaining = h :: rest → P.txq.length < s.params.qcap →
      goes { P with txq := P.txq ++ [h] } (if rest = [] then .tx3 else .tx2) { l with remaining := rest }) ∧
    (∀ h rest, inPhase .tx2 → l.remaining = h :: rest → s.params.qcap ≤ P.txq.length → goes P .txf1 l) ∧
    (inPhase .tx3 → goes { P with txeie := true, errie := true } .tx4 l) ∧
    (inPhase .tx4 → goes { P with spe := true } .tx5 l) ∧
    (inPhase .tx5 → P.taken = false → goes { P with taken := true } .tx6 l) ∧
    (inPhase .tx5 → P.taken = true → goes P .txa1 l) ∧
    (inPhase .tx6 → returns { P with taken := false } .ok) ∧
    (inPhase .txf1 → goes { P with txq := [] } .txf2 l) ∧
    (inPhase .txf2 → returns { P with taken := false } .resourceExhausted) ∧
    (inPhase .txa1 → goes { P with txeie := false, errie := false } .txa2 l) ∧
    (inPhase .txa2 → goes P.stop .txa3 l) ∧
    (inPhase .txa3 → goes { P with txq := [] } .txa4 l) ∧
    (inPhase .txa4 → returns { P with taken := false } .timeout)

/-- The phases of RECEIVE (rules R201, R202 and R210 to R212). -/
def Obligations.ReceivePhases : Prop :=
  ∀ (s : State) (p : PortId) (n : BitVec 16) (f : Byte) (l : Locals) (P : Port), s.hasPort p P →
    let i := Instr.receive p n f
    let inPhase := fun t : RxPhase => s.actorBusy i (.rx t) l
    let goes := fun (P' : Port) (t : RxPhase) (l' : Locals) =>
      exec i s = .next ((s.setPort p.toNat P').setCtl s.actor (.busy i (.rx t) l'))
    let returns := fun (P' : Port) (status : Status) (data : List Byte) =>
      exec i s = .next ((s.setPort p.toNat P').returnResult s.actor ⟨status, false, data⟩)
    (inPhase .rx1 → P.taken = false → goes { P with taken := true } .rx2 l) ∧
    (inPhase .rx1 → P.taken = true → exec i s = .next (s.returnResult s.actor ⟨.timeout, false, []⟩)) ∧
    (inPhase .rx2 → goes { P with rxcnt := n, fill := f } .rx3 l) ∧
    (inPhase .rx3 → goes { P with rxneie := true, errie := true } .rx4 l) ∧
    (inPhase .rx4 → goes { P with spe := true } .rx5 l) ∧
    (inPhase .rx5 → P.taken = false → goes { P with taken := true } .rx6 l) ∧
    (inPhase .rx5 → P.taken = true → goes P .rxa1 l) ∧
    (inPhase .rx6 → goes { P with rxq := [] } .rx7 { l with data := P.rxq }) ∧
    (inPhase .rx7 → returns { P with taken := false } .ok l.data) ∧
    (inPhase .rxa1 → goes { P with rxneie := false, errie := false } .rxa2 l) ∧
    (inPhase .rxa2 → goes P.stop .rxa3 l) ∧
    (inPhase .rxa3 → goes { P with rxq := [] } .rxa4 l) ∧
    (inPhase .rxa4 → returns { P with taken := false } .timeout [])

/-- EXCHANGE drives the line low, runs the phases of TRANSMIT and then of RECEIVE with fill byte 0x00 on the port, skips
the RECEIVE after a result that is not OK, and drives the line high before it returns, on every path (rules R220 and
R221). That the step of the inner transfer's last phase already names RX1 or EX5 and holds the sub-result is the model's
reading of EX3's test (log entry 14, DEDUCED); the clauses hold for any temporaries, those no run reaches among them (log
entry 27). -/
def Obligations.ExchangePhases : Prop :=
  ∀ (s : State) (p : PortId) (b : List Byte) (n : BitVec 16) (l : Locals) (P : Port), s.hasPort p P →
    let i := Instr.exchange p b n
    let inPhase := fun phase : Phase => s.actorBusy i phase l
    let goes := fun (P' : Port) (phase : Phase) (l' : Locals) =>
      exec i s = .next ((s.setPort p.toNat P').setCtl s.actor (.busy i phase l'))
    (inPhase .ex1 → goes { P with csLevel := false } (.tx .tx1) l) ∧
    (∀ t phase l', inPhase (.tx t) → (txPhase s.params.qcap t l P).2 = .goto phase l' →
      goes (txPhase s.params.qcap t l P).1 phase l') ∧
    (∀ t r, inPhase (.tx t) → (txPhase s.params.qcap t l P).2 = .ret r → r.status = .ok →
      goes (txPhase s.params.qcap t l P).1 (.rx .rx1) { l with sub := .ok }) ∧
    (∀ t r, inPhase (.tx t) → (txPhase s.params.qcap t l P).2 = .ret r → r.status ≠ .ok →
      goes (txPhase s.params.qcap t l P).1 .ex5 { l with sub := r.status, data := [] }) ∧
    (∀ t phase l', inPhase (.rx t) → (rxPhase n 0 t l P).2 = .goto phase l' →
      goes (rxPhase n 0 t l P).1 phase l') ∧
    (∀ t r, inPhase (.rx t) → (rxPhase n 0 t l P).2 = .ret r →
      goes (rxPhase n 0 t l P).1 .ex5 { l with sub := r.status, data := r.data }) ∧
    (inPhase .ex5 → exec i s =
      .next ((s.setPort p.toNat { P with csLevel := true }).returnResult s.actor ⟨l.sub, false, l.data⟩))

/-- SET_CS drives the line to its level and returns OK (rule R290). -/
def Obligations.SetCsDrivesLine : Prop :=
  ∀ (s : State) (p : PortId) (level : Bool) (P : Port), s.actorIdle → s.hasPort p P → P.configured = true →
    exec (.setCs p level) s =
      .next ((s.setPort p.toNat { P with csLevel := level }).returnResult s.actor ⟨.ok, false, []⟩)

/-- GET_CS returns OK with the level the block drives, and writes no field of any port (rule R291). -/
def Obligations.GetCsReturnsLevel : Prop :=
  ∀ (s : State) (p : PortId) (P : Port), s.actorIdle → s.hasPort p P → P.configured = true →
    exec (.getCs p) s = .next (s.returnResult s.actor ⟨.ok, P.csLevel, []⟩)

/-- The result word: STATUS in [7:0] by its number, LEVEL in [8], zeros in [15:9], COUNT in [31:16], and COUNT received
bytes packed little-endian in the words after it (rules R145 to R147 and R142). -/
def Obligations.ResultWordFields : Prop :=
  ∀ r : CommandResult,
    (r.word.extractLsb' 0 8).toNat =
      (match r.status with
      | .ok => 0
      | .invalidArgument => 1
      | .resourceExhausted => 2
      | .timeout => 3) ∧
    r.word.getLsbD 8 = r.level ∧ r.word.extractLsb' 9 7 = 0 ∧
    r.word.extractLsb' 16 16 = BitVec.ofNat 16 r.data.length ∧
    r.words.length = 1 + (r.data.length + 3) / 4 ∧
    ∀ k (h : k < r.data.length),
      (r.words.getD (1 + k / 4) 0).extractLsb' (8 * (k % 4)) 8 = r.data[k]

/-! ### Frames of the commands -/

/-- A command that gives a next state changes, apart from the port it names and its caller's record, only FAULTS (no
record is lost) and REFUSED (never cleared): every other port, every other caller, the parameters, the words the caller
has not issued and the host's inputs are unchanged, and the results it has received stay. That a second command of a
Busy caller sets REFUSED in `exec` is log entry 11. -/
def Obligations.CommandFrame : Prop :=
  ∀ (s t : State) (i : Instr), i.isCommand = true → exec i s = .next t →
    t.params = s.params ∧ t.agenda = s.agenda ∧ t.draws = s.draws ∧ t.actor = s.actor ∧
    t.ports.length = s.ports.length ∧ t.callers.length = s.callers.length ∧
    (∀ q, q ≠ i.port.toNat → t.ports[q]? = s.ports[q]?) ∧
    (∀ c, c ≠ s.actor → t.callers[c]? = s.callers[c]?) ∧
    (∀ C C', s.callers[s.actor]? = some C → t.callers[s.actor]? = some C' →
      C'.stream = C.stream ∧ C.results <+: C'.results) ∧
    (∀ r ∈ s.faults, r ∈ t.faults) ∧ (s.refused = true → t.refused = true)

/-- What TRANSMIT leaves of its port: all but TXQ, TXEIE, ERRIE, SPE, the lock, and what Stop discards. -/
def Obligations.TransmitFrame : Prop :=
  ∀ (s t : State) (p : PortId) (b : List Byte) (P P' : Port),
    exec (.transmit p b) s = .next t → s.hasPort p P → t.hasPort p P' →
    P' = { P with
      txq := P'.txq
      txeie := P'.txeie
      errie := P'.errie
      spe := P'.spe
      taken := P'.taken
      txbuf := P'.txbuf
      rxbuf := P'.rxbuf
      shift := P'.shift } ∧
    (P'.txbuf = P.txbuf ∨ P'.txbuf = none) ∧ (P'.rxbuf = P.rxbuf ∨ P'.rxbuf = none) ∧
    (P'.shift = P.shift ∨ P'.shift = P.shift.map fun f => ⟨f.mosi, false, f.csStart⟩)

/-- What RECEIVE leaves of its port: all but RXCNT, FILL, RXQ, RXNEIE, ERRIE, SPE, the lock, and what Stop discards. -/
def Obligations.ReceiveFrame : Prop :=
  ∀ (s t : State) (p : PortId) (n : BitVec 16) (f : Byte) (P P' : Port),
    exec (.receive p n f) s = .next t → s.hasPort p P → t.hasPort p P' →
    P' = { P with
      rxcnt := P'.rxcnt
      fill := P'.fill
      rxq := P'.rxq
      rxneie := P'.rxneie
      errie := P'.errie
      spe := P'.spe
      taken := P'.taken
      txbuf := P'.txbuf
      rxbuf := P'.rxbuf
      shift := P'.shift } ∧
    (P'.rxq = P.rxq ∨ P'.rxq = []) ∧
    (P'.txbuf = P.txbuf ∨ P'.txbuf = none) ∧ (P'.rxbuf = P.rxbuf ∨ P'.rxbuf = none) ∧
    (P'.shift = P.shift ∨ P'.shift = P.shift.map fun f => ⟨f.mosi, false, f.csStart⟩)

/-- What EXCHANGE leaves of its port: all but the fields of TRANSMIT and RECEIVE and the chip-select level. -/
def Obligations.ExchangeFrame : Prop :=
  ∀ (s t : State) (p : PortId) (b : List Byte) (n : BitVec 16) (P P' : Port),
    exec (.exchange p b n) s = .next t → s.hasPort p P → t.hasPort p P' →
    P' = { P with
      csLevel := P'.csLevel
      rxcnt := P'.rxcnt
      fill := P'.fill
      txq := P'.txq
      rxq := P'.rxq
      txeie := P'.txeie
      rxneie := P'.rxneie
      errie := P'.errie
      spe := P'.spe
      taken := P'.taken
      txbuf := P'.txbuf
      rxbuf := P'.rxbuf
      shift := P'.shift } ∧
    (P'.rxq = P.rxq ∨ P'.rxq = []) ∧
    (P'.txbuf = P.txbuf ∨ P'.txbuf = none) ∧ (P'.rxbuf = P.rxbuf ∨ P'.rxbuf = none) ∧
    (P'.shift = P.shift ∨ P'.shift = P.shift.map fun f => ⟨f.mosi, false, f.csStart⟩)

/-! ### The handler (`42_interrupt_handler.md`) -/

/-- ISR_TXE moves the oldest byte of TXQ to the data register, or, when TXQ is empty, disables TXEIE and ERRIE, stops
the bus and gives the lock (rules R262 to R264). -/
def Obligations.IsrTxeMovesByteOrCompletes : Prop :=
  ∀ (s : State) (p : PortId) (P : Port), s.hasPort p P →
    (∀ b q, P.txq = b :: q → exec (.isrTxe p) s =
      .next (s.setPort p.toNat { P with txq := q, txbuf := some b, drlog := P.drlog ++ [b] })) ∧
    (P.txq = [] → exec (.isrTxe p) s =
      .next (s.setPort p.toNat { P with
        txeie := false
        errie := false
        spe := false
        txbuf := none
        rxbuf := none
        shift := P.shift.map fun f => ⟨f.mosi, false, f.csStart⟩
        taken := false }))

/-- ISR_RXNE reads the byte and decrements RXCNT, modulo 2^16 under WRAP and down to 0 under SATURATE. While bytes
remain it offers the byte to RXQ, where a full queue drops it silently; when none remain it disables RXNEIE and ERRIE,
stops the bus and gives the lock, and offers the byte only under ENQUEUE_FINAL_RX (rules R265 to R268). -/
def Obligations.IsrRxneCountsByte : Prop :=
  ∀ (s : State) (p : PortId) (P : Port) (b : Byte), s.hasPort p P → P.rxbuf = some b →
    let n : BitVec 16 := match s.params.underflow with
      | .wrap => P.rxcnt - 1
      | .saturate => if P.rxcnt = 0 then 0 else P.rxcnt - 1
    let offered := if P.rxq.length < s.params.qcap then P.rxq ++ [b] else P.rxq
    (n ≠ 0 → exec (.isrRxne p) s =
      .next (s.setPort p.toNat { P with rxbuf := none, rxcnt := n, rxq := offered })) ∧
    (n = 0 → exec (.isrRxne p) s =
      .next (s.setPort p.toNat { P with
        rxbuf := none
        rxcnt := 0
        rxq := if s.params.enqueueFinalRx then offered else P.rxq
        rxneie := false
        errie := false
        spe := false
        txbuf := none
        shift := P.shift.map fun f => ⟨f.mosi, false, f.csStart⟩
        taken := false }))

/-- ISR_MODF starts the bus again and clears the flag (rule R272); ISR_NONE changes nothing (rule R274). -/
def Obligations.IsrModfRestartsIsrNoneSkips : Prop :=
  ∀ (s : State) (p : PortId) (P : Port), s.hasPort p P →
    exec (.isrModf p) s = .next (s.setPort p.toNat { P with spe := true, modf := false }) ∧
    exec (.isrNone p) s = .next s

/-- What the handler never does (rule R277): it changes no caller, no other port, no fault record and not REFUSED; on
its port it never takes the lock, enables a cause or resets a queue. TXQ changes only by the pop of its oldest byte in
ISR_TXE, RXQ only by a push in ISR_RXNE, RXCNT only by the decrement of rule R266 in ISR_RXNE, and DRLOG only by the byte
popped. It never writes the line, FILL, the configuration, ERRF or WIRE. -/
def Obligations.HandlerFrame : Prop :=
  ∀ (s t : State) (i : Instr) (P P' : Port), i.isCommand = false → exec i s = .next t →
    s.hasPort i.port P → t.hasPort i.port P' →
    t = s.setPort i.port.toNat P' ∧
    (P'.taken = true → P.taken = true) ∧
    (P'.txeie = true → P.txeie = true) ∧ (P'.rxneie = true → P.rxneie = true) ∧
    (P'.errie = true → P.errie = true) ∧
    ((P'.txq = P.txq ∧ P'.drlog = P.drlog) ∨
      (i = .isrTxe i.port ∧ ∃ b, P.txq = b :: P'.txq ∧ P'.drlog = P.drlog ++ [b])) ∧
    (P'.rxq = P.rxq ∨ (i = .isrRxne i.port ∧ ∃ b, P.rxbuf = some b ∧ P'.rxq = P.rxq ++ [b])) ∧
    (P'.rxcnt = P.rxcnt ∨ (i = .isrRxne i.port ∧ P'.rxcnt = decCount s.params.underflow P.rxcnt)) ∧
    P'.configured = P.configured ∧ P'.mode = P.mode ∧ P'.br = P.br ∧ P'.clken = P.clken ∧ P'.errf = P.errf ∧
    P'.fill = P.fill ∧ P'.csLevel = P.csLevel ∧ P'.cspin = P.cspin ∧ P'.pinset = P.pinset ∧ P'.wire = P.wire

/-! ### The shift engine and the bus events (`44_peripheral.md` section 2) -/

/-- A move of PERIPH p with the draw `m` on a clocked port whose BR is in range: Load, Fill and Complete when they are
enabled (rules R320 to R323). That a move with no enabled step answers the same state is the model's (log entries 2 and
26). StepTakesItsMove carries the move to a step. -/
def Obligations.ShiftEngineSteps : Prop :=
  ∀ (s : State) (p : Nat) (m : Byte) (P : Port), s.ports[p]? = some P → P.clken = true →
    P.br.toNat ≤ s.params.pmax - s.params.pmin →
    let moves := fun P' : Port => runMove (.periph p m) s = .next (s.setPort p P')
    (∀ b, P.spe = true → P.txbuf = some b → P.shift = none →
      moves { P with shift := some ⟨b, P.rxneie, P.csLevel⟩, txbuf := none }) ∧
    (P.spe = true → P.rxneie = true → P.txbuf = none → P.shift = none → P.rxbuf = none →
      moves { P with shift := some ⟨P.fill, true, P.csLevel⟩ }) ∧
    (∀ f, P.shift = some f → f.capture = false →
      moves { P with shift := none, wire := P.wire ++ [⟨f.mosi, none, f.csStart, P.csLevel, .complete⟩] }) ∧
    (∀ f, P.shift = some f → f.capture = true → P.rxbuf = none →
      moves { P with
        shift := none
        rxbuf := some m
        wire := P.wire ++ [⟨f.mosi, some m, f.csStart, P.csLevel, .complete⟩] }) ∧
    (P.shift = none → (P.spe = false ∨ (P.txbuf = none ∧ (P.rxneie = false ∨ P.rxbuf ≠ none))) →
      runMove (.periph p m) s = .next s)

/-- A captured frame that completes while RXBUF holds a byte is lost: RXBUF keeps the old byte, and ERRF is set (rule
R324). StepTakesItsMove carries the move to a step. -/
def Obligations.OverrunKeepsOldByte : Prop :=
  ∀ (s : State) (p : Nat) (m old : Byte) (P : Port) (f : Shift), s.ports[p]? = some P → P.clken = true →
    P.br.toNat ≤ s.params.pmax - s.params.pmin → P.shift = some f → f.capture = true → P.rxbuf = some old →
    runMove (.periph p m) s = .next (s.setPort p { P with
      shift := none
      errf := true
      wire := P.wire ++ [⟨f.mosi, some m, f.csStart, P.csLevel, .complete⟩] })

/-- On a clocked port, a mode fault sets MODF, clears SPE and ends the frame in flight as Aborted (rule R325), and the
error event sets ERRF (rule R326). StepTakesItsMove carries the moves to a step. -/
def Obligations.BusEvents : Prop :=
  ∀ (s : State) (p : Nat) (P : Port), s.ports[p]? = some P → P.clken = true →
    runMove (.modeFault p) s = .next (s.setPort p { P with
      modf := true
      spe := false
      shift := none
      wire := P.wire ++ (match P.shift with
        | some f => [⟨f.mosi, none, f.csStart, P.csLevel, .aborted⟩]
        | none => []) }) ∧
    runMove (.busError p) s = .next (s.setPort p { P with errf := true })

/-- While CLKEN is 0, the peripheral takes no step and the environment raises no event on the port (rules R40 and
R370): the model skips such a move, so it answers the same state (log entries 2 and 26). StepTakesItsMove carries the
moves to a step. -/
def Obligations.ClockOffNothingMoves : Prop :=
  ∀ (s : State) (p : Nat) (m : Byte) (P : Port), s.ports[p]? = some P → P.clken = false →
    runMove (.periph p m) s = .next s ∧ runMove (.modeFault p) s = .next s ∧ runMove (.busError p) s = .next s

/-! ### A step -/

/-- A step runs its next move, whichever agent's it is: the host's, with that move taken off its inputs, and where the
host has decided none the free move, with the draw counted (log entry 2). So what is stated of a move of PERIPH or ENV
holds of the step that takes it. -/
def Obligations.StepTakesItsMove : Prop :=
  ∀ s : State, s.refused = false → s.paramsInRange = true →
    (∀ m moves, s.agenda = m :: moves → s.nextMove = m ∧ step s = runMove m { s with agenda := moves }) ∧
    (s.agenda = [] → s.nextMove = Config.freeMove s.draws ∧
      step s = runMove (Config.freeMove s.draws) { s with draws := s.draws + 1 })

/-- A step whose next move, the host's or a free one, is that of an Idle caller, with no cause pending, runs the command
that the caller's words decode to, whole, with the words after it left in the stream. -/
def Obligations.StepRunsIssuedCommand : Prop :=
  ∀ (s : State) (c : Nat) (C : Caller) (i : Instr) (rest : List Word),
    s.refused = false → s.paramsInRange = true → s.nextMove = .caller c → s.anyPending = false →
    s.callers[c]? = some C → C.ctl = .idle → decodeCommand C.stream = .ok (i, rest) →
    step s = exec i { s.takeMove with
      actor := c
      callers := s.callers.set c { C with stream := rest } }

/-- A step whose next move, the host's or a free one, is that of a Busy caller, with no cause pending, runs its command
again, at its phase. -/
def Obligations.StepContinuesCommand : Prop :=
  ∀ (s : State) (c : Nat) (C : Caller) (i : Instr) (phase : Phase) (l : Locals),
    s.refused = false → s.paramsInRange = true → s.nextMove = .caller c → s.anyPending = false →
    s.callers[c]? = some C → C.ctl = .busy i phase l →
    step s = exec i { s.takeMove with actor := c }

/-- A step whose next move, the host's or a free one, is that of ISR p runs the branch that the cause vector of the port
selects (rules R260 and R261). That the move of an ISR whose vector selects none is skipped is the model's (log entries 2
and 26). -/
def Obligations.StepRunsSelectedBranch : Prop :=
  ∀ (s : State) (p : PortId) (P : Port),
    s.refused = false → s.paramsInRange = true → s.nextMove = .isr p.toNat → s.hasPort p P →
    (∀ i, decodeCause p P.cv = some i → step s = exec i s.takeMove) ∧
    (decodeCause p P.cv = none → step s = .next s.takeMove)

/-- While a cause of any port is pending, no caller step is taken (rule R360): the model skips the move of a caller, so
it changes nothing (log entry 2). -/
def Obligations.PendingCauseHoldsCallers : Prop :=
  ∀ (s : State) (c : Nat), s.refused = false → s.paramsInRange = true → s.nextMove = .caller c →
    (∃ P ∈ s.ports, P.cv ≠ 0) → step s = .next s.takeMove

/-- While the other-error cause is the only active one, a firing of the port changes nothing but the host's inputs, so
it stays pending: the storm (rules R274 and R410). -/
def Obligations.OtherErrorStorm : Prop :=
  ∀ (s : State) (p : PortId) (P : Port), s.refused = false → s.paramsInRange = true →
    s.nextMove = .isr p.toNat → s.hasPort p P → P.cv = 0b1000 → step s = .next s.takeMove

/-- The uses that rule R349 puts outside the model set REFUSED, and once it is set no agent takes a step: a command from
interrupt context, a second command of a Busy caller, and a parameter out of its range. How a harness attempts them is
the model's (log entry 11): the two moves, a due firing for the interrupt context, `exec` of a command other than the
caller's running one (one equal to it takes its phase), and the check of the ranges in a step. -/
def Obligations.MisuseIsRefused : Prop :=
  ∀ s : State,
    (s.refused = true → step s = .refused .runRefused) ∧
    (∀ p P, s.refused = false → s.paramsInRange = true → s.nextMove = .callFromInterrupt p →
      s.ports[p]? = some P → P.cv ≠ 0 → step s = .next { s.takeMove with refused := true }) ∧
    (∀ c C cmd phase l, s.refused = false → s.paramsInRange = true → s.nextMove = .callWhileBusy c →
      s.callers[c]? = some C → C.ctl = .busy cmd phase l →
      step s = .next { s.takeMove with refused := true }) ∧
    (∀ i cmd phase l, i.isCommand = true → s.actorBusy cmd phase l → cmd ≠ i →
      exec i s = .next { s with refused := true }) ∧
    (s.refused = false →
      (s.ports.length < 1 ∨ 16 < s.ports.length ∨ s.callers.length < 1 ∨ s.params.qcap < 1 ∨
        65535 < s.params.qcap ∨ s.params.fbus.length ≠ s.ports.length ∨ 0 ∈ s.params.fbus ∨
        s.params.pmax < s.params.pmin ∨ s.params.pmin + 7 < s.params.pmax) →
      step s = .next { s with refused := true })

/-- The stops of the model, by name. A read of an empty data register faults (`44_peripheral.md` rule R307), and so do a
frame clocked with a BR code above PMAX - PMIN (`10_state.md` rule R36) and a phase that is none of its command's (rule
R32); a branch or a phase of a port the block does not have, a command of a caller it does not have, and one of a Stopped
caller (`60_exceptions.md` rule R345) are refused. The names, and the states no rule writes that they stand for, are the
model's (log entries 8 to 10). -/
def Obligations.StopsByName : Prop :=
  ∀ s : State,
    (∀ (p : PortId) (P : Port), s.hasPort p P → P.rxbuf = none → exec (.isrRxne p) s = .fault .dataRegisterEmpty) ∧
    (∀ (p : Nat) (m : Byte) (P : Port), s.ports[p]? = some P → s.params.pmax - s.params.pmin < P.br.toNat →
      P.clken = true → P.shift ≠ none → runMove (.periph p m) s = .fault .prescalerCodeReserved) ∧
    (∀ (i : Instr) (phase : Phase) (l : Locals), i.isCommand = true → s.actorBusy i phase l → phase.fits i = false →
      exec i s = .fault .phaseOfOtherCommand) ∧
    (∀ (i : Instr) (phase : Phase) (l : Locals), i.isTransfer = true → s.actorBusy i phase l → phase.fits i = true →
      s.ports.length ≤ i.port.toNat → exec i s = .refused .noSuchPort) ∧
    (∀ i : Instr, i.isCommand = false → s.ports.length ≤ i.port.toNat → exec i s = .refused .noSuchPort) ∧
    (∀ i : Instr, i.isCommand = true → s.callers[s.actor]? = none → exec i s = .refused .noSuchCaller) ∧
    (∀ (i : Instr) (C : Caller), i.isCommand = true → s.callers[s.actor]? = some C → C.ctl = .stopped →
      exec i s = .refused .callerStopped)

/-! ### The whole machine -/

/-- Every step keeps the invariant: the queues within QCAP, BR in range, the clock on exactly when configured, an
unconfigured port at its reset values, every Busy caller in a phase of a transfer on a configured port, every result
within its format, and the Stopped callers exactly those with a fault record. -/
def Obligations.StepKeepsInvariant : Prop :=
  ∀ s t : State, s.Inv → step s = .next t → t.Inv

/-- In a state that meets the invariant the machine never stops with a fault, and goes on unless the run is refused: no
word, operand, schedule or bus event ends a run. This rests on the model's reading of a move whose agent has no enabled
step as a step that changes nothing (log entry 2); the spec has no step there, and none in a final state (rule R431). -/
def Obligations.InvariantStatesStep : Prop :=
  ∀ s : State, s.Inv → s.refused = false → ∃ t, step s = .next t

/-- While no other caller issues a command naming the port, every step keeps the one-user invariant: no other caller is
Busy on it, between caller `c`'s commands the lock is Available, every cause is disabled, and the queues and data buffers
are empty (rule R59), and within a transfer the port is as its phase says; in particular no overrun occurs (rule R324). -/
def Obligations.SoleUserInvariantKept : Prop :=
  ∀ (s t : State) (p c : Nat), s.Inv → s.SoleInv p c → s.soleUser p c → step s = .next t → t.SoleInv p c

/-- A TRANSMIT of the port's one user, alone or within an EXCHANGE, loses and reorders no byte: at every step but the two
that reset TXQ (TXF1 and TXA3), the bytes written to DR, those in TXQ and those not yet pushed stay one sequence, and
when the TRANSMIT returns OK, or the EXCHANGE goes on to its RECEIVE, that whole sequence has been written to DR. -/
def Obligations.TransmitWritesPayloadInOrder : Prop :=
  ∀ (s t : State) (p : PortId) (c : Nat) (C : Caller) (i : Instr) (ph : TxPhase) (l : Locals) (P P' : Port),
    s.Inv → s.SoleInv p.toNat c → s.soleUser p.toNat c → s.callers[c]? = some C →
    C.ctl = .busy i (.tx ph) l → i.port = p → ph ≠ .txf1 → ph ≠ .txa3 →
    step s = .next t → s.hasPort p P → t.hasPort p P' →
    ∃ C', t.callers[c]? = some C' ∧
      ((∃ ph' l', C'.ctl = .busy i (.tx ph') l' ∧
          P'.drlog ++ P'.txq ++ l'.remaining = P.drlog ++ P.txq ++ l.remaining) ∨
        ((∃ payload, i = .transmit p payload) ∧ C'.ctl = .idle ∧ ∃ r, C'.results = C.results ++ [r] ∧
          (r.status = .ok → P'.drlog = P.drlog ++ P.txq ++ l.remaining)) ∨
        ((∃ payload n, i = .exchange p payload n) ∧ C'.results = C.results ∧
          ((∃ l', C'.ctl = .busy i (.rx .rx1) l' ∧ P'.drlog = P.drlog ++ P.txq ++ l.remaining) ∨
            ∃ l', C'.ctl = .busy i .ex5 l' ∧ l'.sub ≠ .ok)))

/-- A RECEIVE of length n >= 1 of the port's one user, alone or within an EXCHANGE, delivers exactly min(n - 1, QCAP)
bytes when it returns OK, and min(n, QCAP) under ENQUEUE_FINAL_RX (rule R213 (a) and (b)): every step keeps the count
that its phases rest on, and an OK result has that many bytes. -/
def Obligations.ReceiveDeliversItsCount : Prop :=
  ∀ (s t : State) (p c : Nat), s.Inv → s.SoleInv p c → s.soleUser p c → s.CountInv p c → step s = .next t →
    t.CountInv p c ∧
    ∀ (C C' : Caller) (i : Instr) (phase : Phase) (l : Locals) (n : BitVec 16) (r : CommandResult),
      s.callers[c]? = some C → C.ctl = .busy i phase l → i.port.toNat = p → receiveLength i = some n → n ≠ 0 →
      t.callers[c]? = some C' → C'.results = C.results ++ [r] → r.status = .ok →
      r.data.length = min (if s.params.enqueueFinalRx then n.toNat else n.toNat - 1) s.params.qcap

/-- No agent but a caller takes a byte from the sequence of DRLOG and TXQ or adds one: what a caller has queued reaches
DR in its order. -/
def Obligations.OnlyCallersChangeQueuedBytes : Prop :=
  ∀ (s t : State) (p : Nat) (P P' : Port), (∀ c, s.nextMove ≠ .caller c) → step s = .next t →
    s.ports[p]? = some P → t.ports[p]? = some P' → P'.drlog ++ P'.txq = P.drlog ++ P.txq

/-- Ports are independent: a step changes no port but the one its move names (rule R109). -/
def Obligations.StepTouchesOnePort : Prop :=
  ∀ (s t : State) (q : Nat), s.paramsInRange = true → step s = .next t → s.namedPort ≠ some q →
    t.ports[q]? = s.ports[q]?

/-- What a firing or a peripheral step does to its port depends on the parameters and that port alone: from two states
that agree on these, the port's record after is the same (rule R109). -/
def Obligations.PortStepReadsOwnPort : Prop :=
  ∀ (s s' t t' : State) (p : Nat) (m : Move), (m = .isr p ∨ (∃ b, m = .periph p b) ∨ m = .modeFault p ∨ m = .busError p) →
    p < 16 → s.params = s'.params → s.ports[p]? = s'.ports[p]? →
    runMove m s = .next t → runMove m s' = .next t' → t.ports[p]? = t'.ports[p]?

/-- No step removes a fault record, clears REFUSED, or changes the parameters or the numbers of ports and callers, and a
Stopped caller stays as it is (rules R9, R57 and R345). -/
def Obligations.FaultsAreSticky : Prop :=
  ∀ s t : State, step s = .next t →
    (∀ r ∈ s.faults, r ∈ t.faults) ∧ (s.refused = true → t.refused = true) ∧ t.params = s.params ∧
    t.ports.length = s.ports.length ∧ t.callers.length = s.callers.length ∧
    ∀ (c : Nat) (C : Caller), s.callers[c]? = some C → C.ctl = .stopped → t.callers[c]? = some C

/-- No step clears CONFIGURED or CLKEN (rules R34, R40 and R301). -/
def Obligations.ConfigurationIsNeverUndone : Prop :=
  ∀ (s t : State) (p : Nat) (P P' : Port), step s = .next t → s.ports[p]? = some P → t.ports[p]? = some P' →
    (P.configured = true → P'.configured = true) ∧ (P.clken = true → P'.clken = true)

/-- The traces only grow, at the end, and who appends to them. WIRE gains nothing but the record of the frame in SHIFT,
which ends: by a move of PERIPH on its port, as Complete with the drawn byte of a captured frame (rule R322), or by a mode
fault of its port, as Aborted (rule R325), the two that rule R54 names; or, as Aborted too, by a caller that issues a
CONFIGURE of the port, as rule R170 says (against R54, log entry 29). DRLOG gains nothing but the byte popped
from TXQ, by a firing of the port in every state that meets the invariant (rule R55). -/
def Obligations.TracesOnlyGrow : Prop :=
  ∀ (s t : State) (p : Nat) (P P' : Port), step s = .next t → s.ports[p]? = some P → t.ports[p]? = some P' →
    (P'.wire = P.wire ∨ ∃ f, P.shift = some f ∧ P'.shift = none ∧
      ((∃ m, s.nextMove = .periph p m ∧
          P'.wire = P.wire ++ [⟨f.mosi, if f.capture then some m else none, f.csStart, P.csLevel, .complete⟩]) ∨
        ((s.nextMove = .modeFault p ∨
            ∃ c C k mode baud cspin pinset rest, s.nextMove = .caller c ∧ s.callers[c]? = some C ∧ C.ctl = .idle ∧
              decodeCommand C.stream = .ok (.configure k mode baud cspin pinset, rest) ∧ k.toNat = p) ∧
          P'.wire = P.wire ++ [⟨f.mosi, none, f.csStart, P.csLevel, .aborted⟩]))) ∧
    (P'.drlog = P.drlog ∨
      ∃ b, P.txq = b :: P'.txq ∧ P'.drlog = P.drlog ++ [b] ∧ (s.Inv → s.nextMove = .isr p))

/-- Every command that ends does so with one result or one fault: a caller step that does not leave its caller Busy
either appends exactly one result to that caller's, with no new fault, or adds one fault record, its own, and stops the
caller, with no result (rules R340 and R345). A second command of a Busy caller, which `exec` refuses (log entry 11), is
left to MisuseIsRefused. -/
def Obligations.OneOutcomePerCommand : Prop :=
  ∀ (s t : State) (i : Instr) (C C' : Caller), i.isCommand = true → exec i s = .next t → t.refused = false →
    s.callers[s.actor]? = some C → t.callers[s.actor]? = some C' →
    (C'.ctl = .idle ∧ (∃ r, C'.results = C.results ++ [r]) ∧ t.faults = s.faults) ∨
    (C'.ctl = .stopped ∧ C'.results = C.results ∧ t.ports = s.ports ∧
      ∃ kind, t.faults = insertFault s.faults ⟨kind, s.actor, i.word0⟩) ∨
    ((∃ phase l, C'.ctl = .busy i phase l) ∧ C'.results = C.results ∧ t.faults = s.faults)

/-! ### Runs and the named premises (`70_reset_and_hazards.md` rule R430) -/

/-- Along a run whose port `p` has at most one caller issuing commands on it (SingleCaller(p)), from any state that meets
the invariant, in which the port is idle and no caller Busy on it: whenever no caller is running a command on `p`, the
lock is Available, every cause is disabled, and the queues and data buffers are empty (rule R59); and if ENV takes no bus
event on `p` (NoBusFaults(p)), its flags MODF and ERRF stay clear throughout (rule R324). That an illegal command names
the port of its PORT field is log entry 28. -/
def Obligations.SingleCallerPortIsIdle : Prop :=
  ∀ (run : Nat → State) (p n : Nat), isRunTo run n → (run 0).Inv →
    (∀ c, (run 0).phaseOn p c = none) → (∀ P, (run 0).ports[p]? = some P → P.quiescent) → singleCaller run n p →
    (∀ k, k ≤ n → (∀ c, (run k).phaseOn p c = none) → ∀ P, (run k).ports[p]? = some P → P.quiescent) ∧
    (noBusFaults run n p → (∀ P, (run 0).ports[p]? = some P → P.modf = false ∧ P.errf = false) →
      ∀ k, k ≤ n → ∀ P, (run k).ports[p]? = some P → P.modf = false ∧ P.errf = false)

/-- Along a run whose first command naming port `p` is a CONFIGURE that returns OK (Configured(p)), from any state that
meets the invariant: the state after that CONFIGURE is a clean entry of the port (CleanEntry(p)), with the BR of a baud
rate it accepts (rule R393), and no UNCONFIGURED fault of a command naming `p` is raised in the whole run (rule R347).
That an illegal command names the port of its PORT field is log entry 28. -/
def Obligations.ConfiguredRunIsClean : Prop :=
  ∀ (run : Nat → State) (p : PortId) (k n : Nat), isRunTo run n → (run 0).Inv → configuresFirst run p k → k < n →
    (run (k + 1)).cleanEntry p ∧
    ∀ j, j ≤ n → ∀ r ∈ (run j).faults, r.kind = .unconfigured → r ∉ (run 0).faults → portOf r.word0 ≠ p
end

