-- ==== Sys2Proof/Laws/Encoding.lean ====
section
/-! SUPPORT. Lemmas about the fields of a command word and the packing of a payload, for the proofs about decoding and
encoding. -/

namespace Sys2Proof

/-! ### The fields of a command word -/

theorem toNat_append_eq {m n : Nat} (a : BitVec m) (b : BitVec n) : (a ++ b).toNat = a.toNat * 2 ^ n + b.toNat := by
  rw [BitVec.toNat_append, ← Nat.shiftLeft_add_eq_or_of_lt b.isLt, Nat.shiftLeft_eq]

/-- A command word as a number. -/
theorem commandWord_toNat (op : BitVec 4) (p : PortId) (imm : Byte) (len : BitVec 16) :
    (commandWord op p imm len).toNat = ((len.toNat * 256 + imm.toNat) * 16 + p.toNat) * 16 + op.toNat := by
  show (len ++ imm ++ p ++ op).toNat = _
  rw [toNat_append_eq, toNat_append_eq, toNat_append_eq]
  norm_num

theorem opOf_commandWord (op : BitVec 4) (p : PortId) (imm : Byte) (len : BitVec 16) :
    opOf (commandWord op p imm len) = op := by
  apply BitVec.eq_of_toNat_eq
  rw [opOf, BitVec.extractLsb'_toNat, commandWord_toNat, Nat.shiftRight_eq_div_pow]
  omega

theorem portOf_commandWord (op : BitVec 4) (p : PortId) (imm : Byte) (len : BitVec 16) :
    portOf (commandWord op p imm len) = p := by
  apply BitVec.eq_of_toNat_eq
  rw [portOf, BitVec.extractLsb'_toNat, commandWord_toNat, Nat.shiftRight_eq_div_pow]
  omega

theorem imm8Of_commandWord (op : BitVec 4) (p : PortId) (imm : Byte) (len : BitVec 16) :
    imm8Of (commandWord op p imm len) = imm := by
  apply BitVec.eq_of_toNat_eq
  rw [imm8Of, BitVec.extractLsb'_toNat, commandWord_toNat, Nat.shiftRight_eq_div_pow]
  omega

theorem lenOf_commandWord (op : BitVec 4) (p : PortId) (imm : Byte) (len : BitVec 16) :
    lenOf (commandWord op p imm len) = len := by
  apply BitVec.eq_of_toNat_eq
  rw [lenOf, BitVec.extractLsb'_toNat, commandWord_toNat, Nat.shiftRight_eq_div_pow]
  omega

/-- A command word is its four fields. -/
theorem commandWord_fields (w : Word) : commandWord (opOf w) (portOf w) (imm8Of w) (lenOf w) = w := by
  apply BitVec.eq_of_toNat_eq
  rw [commandWord_toNat]
  simp only [opOf, portOf, imm8Of, lenOf, BitVec.extractLsb'_toNat, Nat.shiftRight_eq_div_pow]
  omega

/-- The reserved bits of SET_CS are bits [7:1] of IMM8. -/
theorem extract_imm8Of (w : Word) : w.extractLsb' 9 7 = (imm8Of w).extractLsb' 1 7 := by
  apply BitVec.eq_of_toNat_eq
  simp only [imm8Of, BitVec.extractLsb'_toNat, Nat.shiftRight_eq_div_pow]
  omega

/-- The LEVEL bit of SET_CS is bit 0 of IMM8. -/
theorem getLsbD_imm8Of (w : Word) : w.getLsbD 8 = (imm8Of w).getLsbD 0 := by
  simp [imm8Of]

/-- A byte whose bits [7:1] are 0 is its bit 0. -/
theorem byte_of_bit (b : Byte) (h : b.extractLsb' 1 7 = 0#7) : BitVec.ofNat 8 (b.getLsbD 0).toNat = b := by
  revert b
  decide

/-! ### Payload packing -/

/-- A payload word as a number. -/
theorem packWord_toNat (b0 b1 b2 b3 : Byte) :
    (packWord b0 b1 b2 b3).toNat = ((b3.toNat * 256 + b2.toNat) * 256 + b1.toNat) * 256 + b0.toNat := by
  show (b3 ++ b2 ++ b1 ++ b0).toNat = _
  rw [toNat_append_eq, toNat_append_eq, toNat_append_eq]
  norm_num

theorem unpackWord_packWord (b0 b1 b2 b3 : Byte) : unpackWord (packWord b0 b1 b2 b3) = [b0, b1, b2, b3] := by
  simp only [unpackWord, List.cons.injEq, and_true]
  refine ⟨?_, ?_, ?_, ?_⟩ <;> apply BitVec.eq_of_toNat_eq <;>
    rw [BitVec.extractLsb'_toNat, packWord_toNat, Nat.shiftRight_eq_div_pow] <;> omega

theorem packWord_unpackWord (w : Word) :
    packWord (w.extractLsb' 0 8) (w.extractLsb' 8 8) (w.extractLsb' 16 8) (w.extractLsb' 24 8) = w := by
  apply BitVec.eq_of_toNat_eq
  rw [packWord_toNat]
  simp only [BitVec.extractLsb'_toNat, Nat.shiftRight_eq_div_pow]
  omega

theorem packBytes_length (bs : List Byte) : (packBytes bs).length = payloadWords bs.length := by
  induction bs using packBytes.induct <;> simp_all [packBytes, payloadWords]
  omega

/-- The bytes of the payload words are the payload and its padding. -/
theorem flatMap_packBytes (bs : List Byte) :
    (packBytes bs).flatMap unpackWord = bs ++ List.replicate (4 * payloadWords bs.length - bs.length) 0 := by
  induction bs using packBytes.induct with
  | case1 => simp [packBytes, payloadWords]
  | case2 b0 => simp [packBytes, unpackWord_packWord, payloadWords]
  | case3 b0 b1 => simp [packBytes, unpackWord_packWord, payloadWords, List.replicate]
  | case4 b0 b1 b2 => simp [packBytes, unpackWord_packWord, payloadWords]
  | case5 b0 b1 b2 b3 rest ih =>
    simp only [packBytes, List.flatMap_cons, unpackWord_packWord, ih, payloadWords, List.length_cons, List.cons_append,
      List.nil_append, List.cons.injEq, true_and]
    congr 2
    omega

theorem flatMap_unpackWord_length (ws : List Word) : (ws.flatMap unpackWord).length = 4 * ws.length := by
  induction ws with
  | nil => rfl
  | cons w ws ih => simp [unpackWord] at ih ⊢; omega

/-- Byte `k` of the payload words stands in word `k / 4` at bits `8 (k mod 4)` up. -/
theorem getElem?_flatMap_unpackWord (ws : List Word) (k : Nat) (hk : k < 4 * ws.length) :
    (ws.flatMap unpackWord)[k]? = some ((ws.getD (k / 4) 0).extractLsb' (8 * (k % 4)) 8) := by
  induction ws generalizing k with
  | nil => simp at hk
  | cons w ws ih =>
    simp only [List.flatMap_cons, unpackWord, List.cons_append, List.nil_append]
    match k with
    | 0 => simp
    | 1 => simp
    | 2 => simp
    | 3 => simp
    | k + 4 =>
      simp only [List.getElem?_cons_succ]
      rw [ih k (by simp at hk; omega), show (k + 4) / 4 = k / 4 + 1 by omega, show (k + 4) % 4 = k % 4 by omega]
      simp

/-- A payload word sequence whose bytes after the first `n` are 0 is the packing of those first `n` bytes. -/
theorem packBytes_take {ws : List Word} {n : Nat} (hn : ws.length = payloadWords n)
    (hpad : ((ws.flatMap unpackWord).drop n).all (fun b => b == 0) = true) :
    packBytes ((ws.flatMap unpackWord).take n) = ws := by
  induction ws generalizing n with
  | nil =>
    have : n = 0 := by simp [payloadWords] at hn; omega
    simp [this, packBytes]
  | cons w ws ih =>
    simp only [List.length_cons, payloadWords] at hn
    simp only [List.flatMap_cons] at hpad ⊢
    have hw := packWord_unpackWord w
    match n, hn with
    | 0, hn => omega
    | 1, hn =>
      have : ws = [] := by apply List.eq_nil_of_length_eq_zero; omega
      subst this
      simp [unpackWord] at hpad
      rw [hpad.1, hpad.2.1, hpad.2.2] at hw
      simpa [unpackWord, packBytes] using hw
    | 2, hn =>
      have : ws = [] := by apply List.eq_nil_of_length_eq_zero; omega
      subst this
      simp [unpackWord] at hpad
      rw [hpad.1, hpad.2] at hw
      simpa [unpackWord, packBytes] using hw
    | 3, hn =>
      have : ws = [] := by apply List.eq_nil_of_length_eq_zero; omega
      subst this
      simp [unpackWord] at hpad
      rw [hpad] at hw
      simpa [unpackWord, packBytes] using hw
    | n + 4, hn =>
      have := @ih n (by simp [payloadWords]; omega) (by simpa [unpackWord] using hpad)
      simp [unpackWord, packBytes] at this ⊢
      exact ⟨hw, this⟩

/-- What `takePayload` does with a well-formed payload's words: it gives the payload and leaves the rest. -/
theorem takePayload_packBytes (bs : List Byte) (rest : List Word) :
    takePayload bs.length (packBytes bs ++ rest) = .ok (bs, rest) := by
  have hl := packBytes_length bs
  simp only [takePayload]
  rw [if_neg (by simp; omega), ← hl, List.take_left, List.drop_left, flatMap_packBytes]
  simp

/-- What `takePayload` can do when it accepts. -/
theorem takePayload_ok {n : Nat} {ws : List Word} {bs : List Byte} {rest : List Word}
    (h : takePayload n ws = .ok (bs, rest)) : bs.length = n ∧ packBytes bs ++ rest = ws := by
  simp only [takePayload] at h
  split at h
  · cases h
  · split at h
    · rename_i hlen hpad
      cases h
      have hl : (ws.take (payloadWords n)).length = payloadWords n := by simp; omega
      rw [packBytes_take hl hpad, List.take_append_drop]
      refine ⟨?_, rfl⟩
      rw [List.length_take, flatMap_unpackWord_length, hl]
      simp [payloadWords]
      omega
    · cases h

/-- When `takePayload` rejects words that hold the whole payload: a padding byte is not 0. -/
theorem takePayload_error_iff {n : Nat} {ws : List Word} (hlen : payloadWords n ≤ ws.length) :
    (∃ e, takePayload n ws = .error e) ↔
      ∃ k, n ≤ k ∧ k < 4 * payloadWords n ∧ (ws.getD (k / 4) 0).extractLsb' (8 * (k % 4)) 8 ≠ 0 := by
  have hl : (ws.take (payloadWords n)).length = payloadWords n := by simp; omega
  have hb := flatMap_unpackWord_length (ws.take (payloadWords n))
  rw [hl] at hb
  have key : ∀ k, k < 4 * payloadWords n → ((ws.take (payloadWords n)).flatMap unpackWord)[k]? =
      some ((ws.getD (k / 4) 0).extractLsb' (8 * (k % 4)) 8) := by
    intro k hk
    rw [getElem?_flatMap_unpackWord _ k (by rw [hl]; exact hk)]
    congr 2
    rw [List.getD_eq_getElem?_getD, List.getD_eq_getElem?_getD, List.getElem?_take_of_lt (by omega)]
  simp only [takePayload]
  rw [if_neg (by omega)]
  constructor
  · rintro ⟨e, he⟩
    split at he
    · cases he
    · rename_i hpad
      simp only [List.all_eq_true, not_forall] at hpad
      obtain ⟨b, hb', hne⟩ := hpad
      obtain ⟨j, hj⟩ := List.mem_iff_getElem?.mp hb'
      rw [List.getElem?_drop] at hj
      have hlt : n + j < 4 * payloadWords n := by
        rw [← hb]
        exact (List.getElem?_eq_some_iff.mp hj).1
      refine ⟨n + j, by omega, hlt, ?_⟩
      rw [key _ hlt] at hj
      rw [Option.some.inj hj]
      simpa using hne
  · rintro ⟨k, hnk, hk, hne⟩
    refine ⟨.nonZeroPadding, ?_⟩
    rw [if_neg]
    intro hpad
    rw [List.all_eq_true] at hpad
    have := hpad ((ws.getD (k / 4) 0).extractLsb' (8 * (k % 4)) 8) (by
      apply List.mem_iff_getElem?.mpr
      refine ⟨k - n, ?_⟩
      rw [List.getElem?_drop, show n + (k - n) = k by omega, key k hk])
    exact hne (by simpa using this)

end Sys2Proof
end

