-- ==== Sys2Proof/Laws/State.lean ====
section
/-! SUPPORT. What each update leaves in each field, one lemma per field per update, so that no later proof unfolds a
record update. -/

namespace Sys2Proof.Machine

/-! ### The updates of the state -/
@[simp] theorem State.setPort_params (s : State) (p : Nat) (P : Port) : (s.setPort p P).params = s.params := rfl
@[simp] theorem State.setPort_ports (s : State) (p : Nat) (P : Port) : (s.setPort p P).ports = s.ports.set p P := rfl
@[simp] theorem State.setPort_callers (s : State) (p : Nat) (P : Port) : (s.setPort p P).callers = s.callers := rfl
@[simp] theorem State.setPort_faults (s : State) (p : Nat) (P : Port) : (s.setPort p P).faults = s.faults := rfl
@[simp] theorem State.setPort_refused (s : State) (p : Nat) (P : Port) : (s.setPort p P).refused = s.refused := rfl
@[simp] theorem State.setPort_agenda (s : State) (p : Nat) (P : Port) : (s.setPort p P).agenda = s.agenda := rfl
@[simp] theorem State.setPort_draws (s : State) (p : Nat) (P : Port) : (s.setPort p P).draws = s.draws := rfl
@[simp] theorem State.setPort_actor (s : State) (p : Nat) (P : Port) : (s.setPort p P).actor = s.actor := rfl
@[simp] theorem State.setCtl_params (s : State) (c : Nat) (ctl : CallerState) :
    (s.setCtl c ctl).params = s.params := rfl
@[simp] theorem State.setCtl_ports (s : State) (c : Nat) (ctl : CallerState) : (s.setCtl c ctl).ports = s.ports := rfl
@[simp] theorem State.setCtl_callers (s : State) (c : Nat) (ctl : CallerState) :
    (s.setCtl c ctl).callers = s.callers.modify c fun C => { C with ctl := ctl } := rfl
@[simp] theorem State.setCtl_faults (s : State) (c : Nat) (ctl : CallerState) :
    (s.setCtl c ctl).faults = s.faults := rfl
@[simp] theorem State.setCtl_refused (s : State) (c : Nat) (ctl : CallerState) :
    (s.setCtl c ctl).refused = s.refused := rfl
@[simp] theorem State.setCtl_agenda (s : State) (c : Nat) (ctl : CallerState) :
    (s.setCtl c ctl).agenda = s.agenda := rfl
@[simp] theorem State.setCtl_draws (s : State) (c : Nat) (ctl : CallerState) : (s.setCtl c ctl).draws = s.draws := rfl
@[simp] theorem State.setCtl_actor (s : State) (c : Nat) (ctl : CallerState) : (s.setCtl c ctl).actor = s.actor := rfl
@[simp] theorem State.setStream_params (s : State) (c : Nat) (ws : List Word) :
    (s.setStream c ws).params = s.params := rfl
@[simp] theorem State.setStream_ports (s : State) (c : Nat) (ws : List Word) :
    (s.setStream c ws).ports = s.ports := rfl
@[simp] theorem State.setStream_callers (s : State) (c : Nat) (ws : List Word) :
    (s.setStream c ws).callers = s.callers.modify c fun C => { C with stream := ws } := rfl
@[simp] theorem State.setStream_faults (s : State) (c : Nat) (ws : List Word) :
    (s.setStream c ws).faults = s.faults := rfl
@[simp] theorem State.setStream_refused (s : State) (c : Nat) (ws : List Word) :
    (s.setStream c ws).refused = s.refused := rfl
@[simp] theorem State.setStream_agenda (s : State) (c : Nat) (ws : List Word) :
    (s.setStream c ws).agenda = s.agenda := rfl
@[simp] theorem State.setStream_draws (s : State) (c : Nat) (ws : List Word) :
    (s.setStream c ws).draws = s.draws := rfl
@[simp] theorem State.setStream_actor (s : State) (c : Nat) (ws : List Word) :
    (s.setStream c ws).actor = s.actor := rfl
@[simp] theorem State.setActor_params (s : State) (c : Nat) : (s.setActor c).params = s.params := rfl
@[simp] theorem State.setActor_ports (s : State) (c : Nat) : (s.setActor c).ports = s.ports := rfl
@[simp] theorem State.setActor_callers (s : State) (c : Nat) : (s.setActor c).callers = s.callers := rfl
@[simp] theorem State.setActor_faults (s : State) (c : Nat) : (s.setActor c).faults = s.faults := rfl
@[simp] theorem State.setActor_refused (s : State) (c : Nat) : (s.setActor c).refused = s.refused := rfl
@[simp] theorem State.setActor_agenda (s : State) (c : Nat) : (s.setActor c).agenda = s.agenda := rfl
@[simp] theorem State.setActor_draws (s : State) (c : Nat) : (s.setActor c).draws = s.draws := rfl
@[simp] theorem State.setActor_actor (s : State) (c : Nat) : (s.setActor c).actor = c := rfl
@[simp] theorem State.returnResult_params (s : State) (c : Nat) (r : CommandResult) :
    (s.returnResult c r).params = s.params := rfl
@[simp] theorem State.returnResult_ports (s : State) (c : Nat) (r : CommandResult) :
    (s.returnResult c r).ports = s.ports := rfl
@[simp] theorem State.returnResult_callers (s : State) (c : Nat) (r : CommandResult) :
    (s.returnResult c r).callers = s.callers.modify c fun C => { C with ctl := .idle, results := C.results ++ [r] } := rfl
@[simp] theorem State.returnResult_faults (s : State) (c : Nat) (r : CommandResult) :
    (s.returnResult c r).faults = s.faults := rfl
@[simp] theorem State.returnResult_refused (s : State) (c : Nat) (r : CommandResult) :
    (s.returnResult c r).refused = s.refused := rfl
@[simp] theorem State.returnResult_agenda (s : State) (c : Nat) (r : CommandResult) :
    (s.returnResult c r).agenda = s.agenda := rfl
@[simp] theorem State.returnResult_draws (s : State) (c : Nat) (r : CommandResult) :
    (s.returnResult c r).draws = s.draws := rfl
@[simp] theorem State.returnResult_actor (s : State) (c : Nat) (r : CommandResult) :
    (s.returnResult c r).actor = s.actor := rfl
@[simp] theorem State.raiseFault_params (s : State) (kind : FaultKind) (c : Nat) (w : Word) :
    (s.raiseFault kind c w).params = s.params := rfl
@[simp] theorem State.raiseFault_ports (s : State) (kind : FaultKind) (c : Nat) (w : Word) :
    (s.raiseFault kind c w).ports = s.ports := rfl
@[simp] theorem State.raiseFault_callers (s : State) (kind : FaultKind) (c : Nat) (w : Word) :
    (s.raiseFault kind c w).callers = s.callers.modify c fun C => { C with ctl := .stopped } := rfl
@[simp] theorem State.raiseFault_faults (s : State) (kind : FaultKind) (c : Nat) (w : Word) :
    (s.raiseFault kind c w).faults = insertFault s.faults ⟨kind, c, w⟩ := rfl
@[simp] theorem State.raiseFault_refused (s : State) (kind : FaultKind) (c : Nat) (w : Word) :
    (s.raiseFault kind c w).refused = s.refused := rfl
@[simp] theorem State.raiseFault_agenda (s : State) (kind : FaultKind) (c : Nat) (w : Word) :
    (s.raiseFault kind c w).agenda = s.agenda := rfl
@[simp] theorem State.raiseFault_draws (s : State) (kind : FaultKind) (c : Nat) (w : Word) :
    (s.raiseFault kind c w).draws = s.draws := rfl
@[simp] theorem State.raiseFault_actor (s : State) (kind : FaultKind) (c : Nat) (w : Word) :
    (s.raiseFault kind c w).actor = s.actor := rfl
@[simp] theorem State.refuse_params (s : State) : s.refuse.params = s.params := rfl
@[simp] theorem State.refuse_ports (s : State) : s.refuse.ports = s.ports := rfl
@[simp] theorem State.refuse_callers (s : State) : s.refuse.callers = s.callers := rfl
@[simp] theorem State.refuse_faults (s : State) : s.refuse.faults = s.faults := rfl
@[simp] theorem State.refuse_refused (s : State) : s.refuse.refused = true := rfl
@[simp] theorem State.refuse_agenda (s : State) : s.refuse.agenda = s.agenda := rfl
@[simp] theorem State.refuse_draws (s : State) : s.refuse.draws = s.draws := rfl
@[simp] theorem State.refuse_actor (s : State) : s.refuse.actor = s.actor := rfl

/-! ### The updates of a port record -/

@[simp] theorem Port.resetTxq_configured (P : Port) : P.resetTxq.configured = P.configured := rfl
@[simp] theorem Port.resetTxq_mode (P : Port) : P.resetTxq.mode = P.mode := rfl
@[simp] theorem Port.resetTxq_br (P : Port) : P.resetTxq.br = P.br := rfl
@[simp] theorem Port.resetTxq_spe (P : Port) : P.resetTxq.spe = P.spe := rfl
@[simp] theorem Port.resetTxq_clken (P : Port) : P.resetTxq.clken = P.clken := rfl
@[simp] theorem Port.resetTxq_txeie (P : Port) : P.resetTxq.txeie = P.txeie := rfl
@[simp] theorem Port.resetTxq_rxneie (P : Port) : P.resetTxq.rxneie = P.rxneie := rfl
@[simp] theorem Port.resetTxq_errie (P : Port) : P.resetTxq.errie = P.errie := rfl
@[simp] theorem Port.resetTxq_modf (P : Port) : P.resetTxq.modf = P.modf := rfl
@[simp] theorem Port.resetTxq_errf (P : Port) : P.resetTxq.errf = P.errf := rfl
@[simp] theorem Port.resetTxq_txbuf (P : Port) : P.resetTxq.txbuf = P.txbuf := rfl
@[simp] theorem Port.resetTxq_rxbuf (P : Port) : P.resetTxq.rxbuf = P.rxbuf := rfl
@[simp] theorem Port.resetTxq_shift (P : Port) : P.resetTxq.shift = P.shift := rfl
@[simp] theorem Port.resetTxq_rxcnt (P : Port) : P.resetTxq.rxcnt = P.rxcnt := rfl
@[simp] theorem Port.resetTxq_fill (P : Port) : P.resetTxq.fill = P.fill := rfl
@[simp] theorem Port.resetTxq_taken (P : Port) : P.resetTxq.taken = P.taken := rfl
@[simp] theorem Port.resetTxq_csLevel (P : Port) : P.resetTxq.csLevel = P.csLevel := rfl
@[simp] theorem Port.resetTxq_cspin (P : Port) : P.resetTxq.cspin = P.cspin := rfl
@[simp] theorem Port.resetTxq_pinset (P : Port) : P.resetTxq.pinset = P.pinset := rfl
@[simp] theorem Port.resetTxq_txq (P : Port) : P.resetTxq.txq = [] := rfl
@[simp] theorem Port.resetTxq_rxq (P : Port) : P.resetTxq.rxq = P.rxq := rfl
@[simp] theorem Port.resetTxq_wire (P : Port) : P.resetTxq.wire = P.wire := rfl
@[simp] theorem Port.resetTxq_drlog (P : Port) : P.resetTxq.drlog = P.drlog := rfl
@[simp] theorem Port.resetRxq_configured (P : Port) : P.resetRxq.configured = P.configured := rfl
@[simp] theorem Port.resetRxq_mode (P : Port) : P.resetRxq.mode = P.mode := rfl
@[simp] theorem Port.resetRxq_br (P : Port) : P.resetRxq.br = P.br := rfl
@[simp] theorem Port.resetRxq_spe (P : Port) : P.resetRxq.spe = P.spe := rfl
@[simp] theorem Port.resetRxq_clken (P : Port) : P.resetRxq.clken = P.clken := rfl
@[simp] theorem Port.resetRxq_txeie (P : Port) : P.resetRxq.txeie = P.txeie := rfl
@[simp] theorem Port.resetRxq_rxneie (P : Port) : P.resetRxq.rxneie = P.rxneie := rfl
@[simp] theorem Port.resetRxq_errie (P : Port) : P.resetRxq.errie = P.errie := rfl
@[simp] theorem Port.resetRxq_modf (P : Port) : P.resetRxq.modf = P.modf := rfl
@[simp] theorem Port.resetRxq_errf (P : Port) : P.resetRxq.errf = P.errf := rfl
@[simp] theorem Port.resetRxq_txbuf (P : Port) : P.resetRxq.txbuf = P.txbuf := rfl
@[simp] theorem Port.resetRxq_rxbuf (P : Port) : P.resetRxq.rxbuf = P.rxbuf := rfl
@[simp] theorem Port.resetRxq_shift (P : Port) : P.resetRxq.shift = P.shift := rfl
@[simp] theorem Port.resetRxq_rxcnt (P : Port) : P.resetRxq.rxcnt = P.rxcnt := rfl
@[simp] theorem Port.resetRxq_fill (P : Port) : P.resetRxq.fill = P.fill := rfl
@[simp] theorem Port.resetRxq_taken (P : Port) : P.resetRxq.taken = P.taken := rfl
@[simp] theorem Port.resetRxq_csLevel (P : Port) : P.resetRxq.csLevel = P.csLevel := rfl
@[simp] theorem Port.resetRxq_cspin (P : Port) : P.resetRxq.cspin = P.cspin := rfl
@[simp] theorem Port.resetRxq_pinset (P : Port) : P.resetRxq.pinset = P.pinset := rfl
@[simp] theorem Port.resetRxq_txq (P : Port) : P.resetRxq.txq = P.txq := rfl
@[simp] theorem Port.resetRxq_rxq (P : Port) : P.resetRxq.rxq = [] := rfl
@[simp] theorem Port.resetRxq_wire (P : Port) : P.resetRxq.wire = P.wire := rfl
@[simp] theorem Port.resetRxq_drlog (P : Port) : P.resetRxq.drlog = P.drlog := rfl
@[simp] theorem Port.lockGive_configured (P : Port) : P.lockGive.configured = P.configured := rfl
@[simp] theorem Port.lockGive_mode (P : Port) : P.lockGive.mode = P.mode := rfl
@[simp] theorem Port.lockGive_br (P : Port) : P.lockGive.br = P.br := rfl
@[simp] theorem Port.lockGive_spe (P : Port) : P.lockGive.spe = P.spe := rfl
@[simp] theorem Port.lockGive_clken (P : Port) : P.lockGive.clken = P.clken := rfl
@[simp] theorem Port.lockGive_txeie (P : Port) : P.lockGive.txeie = P.txeie := rfl
@[simp] theorem Port.lockGive_rxneie (P : Port) : P.lockGive.rxneie = P.rxneie := rfl
@[simp] theorem Port.lockGive_errie (P : Port) : P.lockGive.errie = P.errie := rfl
@[simp] theorem Port.lockGive_modf (P : Port) : P.lockGive.modf = P.modf := rfl
@[simp] theorem Port.lockGive_errf (P : Port) : P.lockGive.errf = P.errf := rfl
@[simp] theorem Port.lockGive_txbuf (P : Port) : P.lockGive.txbuf = P.txbuf := rfl
@[simp] theorem Port.lockGive_rxbuf (P : Port) : P.lockGive.rxbuf = P.rxbuf := rfl
@[simp] theorem Port.lockGive_shift (P : Port) : P.lockGive.shift = P.shift := rfl
@[simp] theorem Port.lockGive_rxcnt (P : Port) : P.lockGive.rxcnt = P.rxcnt := rfl
@[simp] theorem Port.lockGive_fill (P : Port) : P.lockGive.fill = P.fill := rfl
@[simp] theorem Port.lockGive_taken (P : Port) : P.lockGive.taken = false := rfl
@[simp] theorem Port.lockGive_csLevel (P : Port) : P.lockGive.csLevel = P.csLevel := rfl
@[simp] theorem Port.lockGive_cspin (P : Port) : P.lockGive.cspin = P.cspin := rfl
@[simp] theorem Port.lockGive_pinset (P : Port) : P.lockGive.pinset = P.pinset := rfl
@[simp] theorem Port.lockGive_txq (P : Port) : P.lockGive.txq = P.txq := rfl
@[simp] theorem Port.lockGive_rxq (P : Port) : P.lockGive.rxq = P.rxq := rfl
@[simp] theorem Port.lockGive_wire (P : Port) : P.lockGive.wire = P.wire := rfl
@[simp] theorem Port.lockGive_drlog (P : Port) : P.lockGive.drlog = P.drlog := rfl
@[simp] theorem Port.clockEnable_configured (P : Port) : P.clockEnable.configured = P.configured := rfl
@[simp] theorem Port.clockEnable_mode (P : Port) : P.clockEnable.mode = P.mode := rfl
@[simp] theorem Port.clockEnable_br (P : Port) : P.clockEnable.br = P.br := rfl
@[simp] theorem Port.clockEnable_spe (P : Port) : P.clockEnable.spe = P.spe := rfl
@[simp] theorem Port.clockEnable_clken (P : Port) : P.clockEnable.clken = true := rfl
@[simp] theorem Port.clockEnable_txeie (P : Port) : P.clockEnable.txeie = P.txeie := rfl
@[simp] theorem Port.clockEnable_rxneie (P : Port) : P.clockEnable.rxneie = P.rxneie := rfl
@[simp] theorem Port.clockEnable_errie (P : Port) : P.clockEnable.errie = P.errie := rfl
@[simp] theorem Port.clockEnable_modf (P : Port) : P.clockEnable.modf = P.modf := rfl
@[simp] theorem Port.clockEnable_errf (P : Port) : P.clockEnable.errf = P.errf := rfl
@[simp] theorem Port.clockEnable_txbuf (P : Port) : P.clockEnable.txbuf = P.txbuf := rfl
@[simp] theorem Port.clockEnable_rxbuf (P : Port) : P.clockEnable.rxbuf = P.rxbuf := rfl
@[simp] theorem Port.clockEnable_shift (P : Port) : P.clockEnable.shift = P.shift := rfl
@[simp] theorem Port.clockEnable_rxcnt (P : Port) : P.clockEnable.rxcnt = P.rxcnt := rfl
@[simp] theorem Port.clockEnable_fill (P : Port) : P.clockEnable.fill = P.fill := rfl
@[simp] theorem Port.clockEnable_taken (P : Port) : P.clockEnable.taken = P.taken := rfl
@[simp] theorem Port.clockEnable_csLevel (P : Port) : P.clockEnable.csLevel = P.csLevel := rfl
@[simp] theorem Port.clockEnable_cspin (P : Port) : P.clockEnable.cspin = P.cspin := rfl
@[simp] theorem Port.clockEnable_pinset (P : Port) : P.clockEnable.pinset = P.pinset := rfl
@[simp] theorem Port.clockEnable_txq (P : Port) : P.clockEnable.txq = P.txq := rfl
@[simp] theorem Port.clockEnable_rxq (P : Port) : P.clockEnable.rxq = P.rxq := rfl
@[simp] theorem Port.clockEnable_wire (P : Port) : P.clockEnable.wire = P.wire := rfl
@[simp] theorem Port.clockEnable_drlog (P : Port) : P.clockEnable.drlog = P.drlog := rfl
@[simp] theorem Port.configureMode_configured (P : Port) (m : BitVec 2) (br : BitVec 3) :
    (P.configureMode m br).configured = P.configured := rfl
@[simp] theorem Port.configureMode_mode (P : Port) (m : BitVec 2) (br : BitVec 3) :
    (P.configureMode m br).mode = m := rfl
@[simp] theorem Port.configureMode_br (P : Port) (m : BitVec 2) (br : BitVec 3) : (P.configureMode m br).br = br := rfl
@[simp] theorem Port.configureMode_spe (P : Port) (m : BitVec 2) (br : BitVec 3) :
    (P.configureMode m br).spe = P.spe := rfl
@[simp] theorem Port.configureMode_clken (P : Port) (m : BitVec 2) (br : BitVec 3) :
    (P.configureMode m br).clken = P.clken := rfl
@[simp] theorem Port.configureMode_txeie (P : Port) (m : BitVec 2) (br : BitVec 3) :
    (P.configureMode m br).txeie = P.txeie := rfl
@[simp] theorem Port.configureMode_rxneie (P : Port) (m : BitVec 2) (br : BitVec 3) :
    (P.configureMode m br).rxneie = P.rxneie := rfl
@[simp] theorem Port.configureMode_errie (P : Port) (m : BitVec 2) (br : BitVec 3) :
    (P.configureMode m br).errie = P.errie := rfl
@[simp] theorem Port.configureMode_modf (P : Port) (m : BitVec 2) (br : BitVec 3) :
    (P.configureMode m br).modf = P.modf := rfl
@[simp] theorem Port.configureMode_errf (P : Port) (m : BitVec 2) (br : BitVec 3) :
    (P.configureMode m br).errf = P.errf := rfl
@[simp] theorem Port.configureMode_txbuf (P : Port) (m : BitVec 2) (br : BitVec 3) :
    (P.configureMode m br).txbuf = P.txbuf := rfl
@[simp] theorem Port.configureMode_rxbuf (P : Port) (m : BitVec 2) (br : BitVec 3) :
    (P.configureMode m br).rxbuf = P.rxbuf := rfl
@[simp] theorem Port.configureMode_shift (P : Port) (m : BitVec 2) (br : BitVec 3) :
    (P.configureMode m br).shift = P.shift := rfl
@[simp] theorem Port.configureMode_rxcnt (P : Port) (m : BitVec 2) (br : BitVec 3) :
    (P.configureMode m br).rxcnt = P.rxcnt := rfl
@[simp] theorem Port.configureMode_fill (P : Port) (m : BitVec 2) (br : BitVec 3) :
    (P.configureMode m br).fill = P.fill := rfl
@[simp] theorem Port.configureMode_taken (P : Port) (m : BitVec 2) (br : BitVec 3) :
    (P.configureMode m br).taken = P.taken := rfl
@[simp] theorem Port.configureMode_csLevel (P : Port) (m : BitVec 2) (br : BitVec 3) :
    (P.configureMode m br).csLevel = P.csLevel := rfl
@[simp] theorem Port.configureMode_cspin (P : Port) (m : BitVec 2) (br : BitVec 3) :
    (P.configureMode m br).cspin = P.cspin := rfl
@[simp] theorem Port.configureMode_pinset (P : Port) (m : BitVec 2) (br : BitVec 3) :
    (P.configureMode m br).pinset = P.pinset := rfl
@[simp] theorem Port.configureMode_txq (P : Port) (m : BitVec 2) (br : BitVec 3) :
    (P.configureMode m br).txq = P.txq := rfl
@[simp] theorem Port.configureMode_rxq (P : Port) (m : BitVec 2) (br : BitVec 3) :
    (P.configureMode m br).rxq = P.rxq := rfl
@[simp] theorem Port.configureMode_wire (P : Port) (m : BitVec 2) (br : BitVec 3) :
    (P.configureMode m br).wire = P.wire := rfl
@[simp] theorem Port.configureMode_drlog (P : Port) (m : BitVec 2) (br : BitVec 3) :
    (P.configureMode m br).drlog = P.drlog := rfl
@[simp] theorem Port.enableIrq_configured (P : Port) (S : IrqSet) : (P.enableIrq S).configured = P.configured := rfl
@[simp] theorem Port.enableIrq_mode (P : Port) (S : IrqSet) : (P.enableIrq S).mode = P.mode := rfl
@[simp] theorem Port.enableIrq_br (P : Port) (S : IrqSet) : (P.enableIrq S).br = P.br := rfl
@[simp] theorem Port.enableIrq_spe (P : Port) (S : IrqSet) : (P.enableIrq S).spe = P.spe := rfl
@[simp] theorem Port.enableIrq_clken (P : Port) (S : IrqSet) : (P.enableIrq S).clken = P.clken := rfl
@[simp] theorem Port.enableIrq_txeie (P : Port) (S : IrqSet) : (P.enableIrq S).txeie = (P.txeie || S.txe) := rfl
@[simp] theorem Port.enableIrq_rxneie (P : Port) (S : IrqSet) : (P.enableIrq S).rxneie = (P.rxneie || S.rxne) := rfl
@[simp] theorem Port.enableIrq_errie (P : Port) (S : IrqSet) : (P.enableIrq S).errie = (P.errie || S.err) := rfl
@[simp] theorem Port.enableIrq_modf (P : Port) (S : IrqSet) : (P.enableIrq S).modf = P.modf := rfl
@[simp] theorem Port.enableIrq_errf (P : Port) (S : IrqSet) : (P.enableIrq S).errf = P.errf := rfl
@[simp] theorem Port.enableIrq_txbuf (P : Port) (S : IrqSet) : (P.enableIrq S).txbuf = P.txbuf := rfl
@[simp] theorem Port.enableIrq_rxbuf (P : Port) (S : IrqSet) : (P.enableIrq S).rxbuf = P.rxbuf := rfl
@[simp] theorem Port.enableIrq_shift (P : Port) (S : IrqSet) : (P.enableIrq S).shift = P.shift := rfl
@[simp] theorem Port.enableIrq_rxcnt (P : Port) (S : IrqSet) : (P.enableIrq S).rxcnt = P.rxcnt := rfl
@[simp] theorem Port.enableIrq_fill (P : Port) (S : IrqSet) : (P.enableIrq S).fill = P.fill := rfl
@[simp] theorem Port.enableIrq_taken (P : Port) (S : IrqSet) : (P.enableIrq S).taken = P.taken := rfl
@[simp] theorem Port.enableIrq_csLevel (P : Port) (S : IrqSet) : (P.enableIrq S).csLevel = P.csLevel := rfl
@[simp] theorem Port.enableIrq_cspin (P : Port) (S : IrqSet) : (P.enableIrq S).cspin = P.cspin := rfl
@[simp] theorem Port.enableIrq_pinset (P : Port) (S : IrqSet) : (P.enableIrq S).pinset = P.pinset := rfl
@[simp] theorem Port.enableIrq_txq (P : Port) (S : IrqSet) : (P.enableIrq S).txq = P.txq := rfl
@[simp] theorem Port.enableIrq_rxq (P : Port) (S : IrqSet) : (P.enableIrq S).rxq = P.rxq := rfl
@[simp] theorem Port.enableIrq_wire (P : Port) (S : IrqSet) : (P.enableIrq S).wire = P.wire := rfl
@[simp] theorem Port.enableIrq_drlog (P : Port) (S : IrqSet) : (P.enableIrq S).drlog = P.drlog := rfl
@[simp] theorem Port.disableIrq_configured (P : Port) (S : IrqSet) : (P.disableIrq S).configured = P.configured := rfl
@[simp] theorem Port.disableIrq_mode (P : Port) (S : IrqSet) : (P.disableIrq S).mode = P.mode := rfl
@[simp] theorem Port.disableIrq_br (P : Port) (S : IrqSet) : (P.disableIrq S).br = P.br := rfl
@[simp] theorem Port.disableIrq_spe (P : Port) (S : IrqSet) : (P.disableIrq S).spe = P.spe := rfl
@[simp] theorem Port.disableIrq_clken (P : Port) (S : IrqSet) : (P.disableIrq S).clken = P.clken := rfl
@[simp] theorem Port.disableIrq_txeie (P : Port) (S : IrqSet) : (P.disableIrq S).txeie = (P.txeie && !S.txe) := rfl
@[simp] theorem Port.disableIrq_rxneie (P : Port) (S : IrqSet) : (P.disableIrq S).rxneie = (P.rxneie && !S.rxne) := rfl
@[simp] theorem Port.disableIrq_errie (P : Port) (S : IrqSet) : (P.disableIrq S).errie = (P.errie && !S.err) := rfl
@[simp] theorem Port.disableIrq_modf (P : Port) (S : IrqSet) : (P.disableIrq S).modf = P.modf := rfl
@[simp] theorem Port.disableIrq_errf (P : Port) (S : IrqSet) : (P.disableIrq S).errf = P.errf := rfl
@[simp] theorem Port.disableIrq_txbuf (P : Port) (S : IrqSet) : (P.disableIrq S).txbuf = P.txbuf := rfl
@[simp] theorem Port.disableIrq_rxbuf (P : Port) (S : IrqSet) : (P.disableIrq S).rxbuf = P.rxbuf := rfl
@[simp] theorem Port.disableIrq_shift (P : Port) (S : IrqSet) : (P.disableIrq S).shift = P.shift := rfl
@[simp] theorem Port.disableIrq_rxcnt (P : Port) (S : IrqSet) : (P.disableIrq S).rxcnt = P.rxcnt := rfl
@[simp] theorem Port.disableIrq_fill (P : Port) (S : IrqSet) : (P.disableIrq S).fill = P.fill := rfl
@[simp] theorem Port.disableIrq_taken (P : Port) (S : IrqSet) : (P.disableIrq S).taken = P.taken := rfl
@[simp] theorem Port.disableIrq_csLevel (P : Port) (S : IrqSet) : (P.disableIrq S).csLevel = P.csLevel := rfl
@[simp] theorem Port.disableIrq_cspin (P : Port) (S : IrqSet) : (P.disableIrq S).cspin = P.cspin := rfl
@[simp] theorem Port.disableIrq_pinset (P : Port) (S : IrqSet) : (P.disableIrq S).pinset = P.pinset := rfl
@[simp] theorem Port.disableIrq_txq (P : Port) (S : IrqSet) : (P.disableIrq S).txq = P.txq := rfl
@[simp] theorem Port.disableIrq_rxq (P : Port) (S : IrqSet) : (P.disableIrq S).rxq = P.rxq := rfl
@[simp] theorem Port.disableIrq_wire (P : Port) (S : IrqSet) : (P.disableIrq S).wire = P.wire := rfl
@[simp] theorem Port.disableIrq_drlog (P : Port) (S : IrqSet) : (P.disableIrq S).drlog = P.drlog := rfl
@[simp] theorem Port.start_configured (P : Port) : P.start.configured = P.configured := rfl
@[simp] theorem Port.start_mode (P : Port) : P.start.mode = P.mode := rfl
@[simp] theorem Port.start_br (P : Port) : P.start.br = P.br := rfl
@[simp] theorem Port.start_spe (P : Port) : P.start.spe = true := rfl
@[simp] theorem Port.start_clken (P : Port) : P.start.clken = P.clken := rfl
@[simp] theorem Port.start_txeie (P : Port) : P.start.txeie = P.txeie := rfl
@[simp] theorem Port.start_rxneie (P : Port) : P.start.rxneie = P.rxneie := rfl
@[simp] theorem Port.start_errie (P : Port) : P.start.errie = P.errie := rfl
@[simp] theorem Port.start_modf (P : Port) : P.start.modf = P.modf := rfl
@[simp] theorem Port.start_errf (P : Port) : P.start.errf = P.errf := rfl
@[simp] theorem Port.start_txbuf (P : Port) : P.start.txbuf = P.txbuf := rfl
@[simp] theorem Port.start_rxbuf (P : Port) : P.start.rxbuf = P.rxbuf := rfl
@[simp] theorem Port.start_shift (P : Port) : P.start.shift = P.shift := rfl
@[simp] theorem Port.start_rxcnt (P : Port) : P.start.rxcnt = P.rxcnt := rfl
@[simp] theorem Port.start_fill (P : Port) : P.start.fill = P.fill := rfl
@[simp] theorem Port.start_taken (P : Port) : P.start.taken = P.taken := rfl
@[simp] theorem Port.start_csLevel (P : Port) : P.start.csLevel = P.csLevel := rfl
@[simp] theorem Port.start_cspin (P : Port) : P.start.cspin = P.cspin := rfl
@[simp] theorem Port.start_pinset (P : Port) : P.start.pinset = P.pinset := rfl
@[simp] theorem Port.start_txq (P : Port) : P.start.txq = P.txq := rfl
@[simp] theorem Port.start_rxq (P : Port) : P.start.rxq = P.rxq := rfl
@[simp] theorem Port.start_wire (P : Port) : P.start.wire = P.wire := rfl
@[simp] theorem Port.start_drlog (P : Port) : P.start.drlog = P.drlog := rfl
@[simp] theorem Port.stop_configured (P : Port) : P.stop.configured = P.configured := rfl
@[simp] theorem Port.stop_mode (P : Port) : P.stop.mode = P.mode := rfl
@[simp] theorem Port.stop_br (P : Port) : P.stop.br = P.br := rfl
@[simp] theorem Port.stop_spe (P : Port) : P.stop.spe = false := rfl
@[simp] theorem Port.stop_clken (P : Port) : P.stop.clken = P.clken := rfl
@[simp] theorem Port.stop_txeie (P : Port) : P.stop.txeie = P.txeie := rfl
@[simp] theorem Port.stop_rxneie (P : Port) : P.stop.rxneie = P.rxneie := rfl
@[simp] theorem Port.stop_errie (P : Port) : P.stop.errie = P.errie := rfl
@[simp] theorem Port.stop_modf (P : Port) : P.stop.modf = P.modf := rfl
@[simp] theorem Port.stop_errf (P : Port) : P.stop.errf = P.errf := rfl
@[simp] theorem Port.stop_txbuf (P : Port) : P.stop.txbuf = none := rfl
@[simp] theorem Port.stop_rxbuf (P : Port) : P.stop.rxbuf = none := rfl
@[simp] theorem Port.stop_shift (P : Port) : P.stop.shift = P.shift.map fun f => { f with capture := false } := rfl
@[simp] theorem Port.stop_rxcnt (P : Port) : P.stop.rxcnt = P.rxcnt := rfl
@[simp] theorem Port.stop_fill (P : Port) : P.stop.fill = P.fill := rfl
@[simp] theorem Port.stop_taken (P : Port) : P.stop.taken = P.taken := rfl
@[simp] theorem Port.stop_csLevel (P : Port) : P.stop.csLevel = P.csLevel := rfl
@[simp] theorem Port.stop_cspin (P : Port) : P.stop.cspin = P.cspin := rfl
@[simp] theorem Port.stop_pinset (P : Port) : P.stop.pinset = P.pinset := rfl
@[simp] theorem Port.stop_txq (P : Port) : P.stop.txq = P.txq := rfl
@[simp] theorem Port.stop_rxq (P : Port) : P.stop.rxq = P.rxq := rfl
@[simp] theorem Port.stop_wire (P : Port) : P.stop.wire = P.wire := rfl
@[simp] theorem Port.stop_drlog (P : Port) : P.stop.drlog = P.drlog := rfl
@[simp] theorem Port.writeData_configured (P : Port) (b : Byte) : (P.writeData b).configured = P.configured := rfl
@[simp] theorem Port.writeData_mode (P : Port) (b : Byte) : (P.writeData b).mode = P.mode := rfl
@[simp] theorem Port.writeData_br (P : Port) (b : Byte) : (P.writeData b).br = P.br := rfl
@[simp] theorem Port.writeData_spe (P : Port) (b : Byte) : (P.writeData b).spe = P.spe := rfl
@[simp] theorem Port.writeData_clken (P : Port) (b : Byte) : (P.writeData b).clken = P.clken := rfl
@[simp] theorem Port.writeData_txeie (P : Port) (b : Byte) : (P.writeData b).txeie = P.txeie := rfl
@[simp] theorem Port.writeData_rxneie (P : Port) (b : Byte) : (P.writeData b).rxneie = P.rxneie := rfl
@[simp] theorem Port.writeData_errie (P : Port) (b : Byte) : (P.writeData b).errie = P.errie := rfl
@[simp] theorem Port.writeData_modf (P : Port) (b : Byte) : (P.writeData b).modf = P.modf := rfl
@[simp] theorem Port.writeData_errf (P : Port) (b : Byte) : (P.writeData b).errf = P.errf := rfl
@[simp] theorem Port.writeData_txbuf (P : Port) (b : Byte) : (P.writeData b).txbuf = some b := rfl
@[simp] theorem Port.writeData_rxbuf (P : Port) (b : Byte) : (P.writeData b).rxbuf = P.rxbuf := rfl
@[simp] theorem Port.writeData_shift (P : Port) (b : Byte) : (P.writeData b).shift = P.shift := rfl
@[simp] theorem Port.writeData_rxcnt (P : Port) (b : Byte) : (P.writeData b).rxcnt = P.rxcnt := rfl
@[simp] theorem Port.writeData_fill (P : Port) (b : Byte) : (P.writeData b).fill = P.fill := rfl
@[simp] theorem Port.writeData_taken (P : Port) (b : Byte) : (P.writeData b).taken = P.taken := rfl
@[simp] theorem Port.writeData_csLevel (P : Port) (b : Byte) : (P.writeData b).csLevel = P.csLevel := rfl
@[simp] theorem Port.writeData_cspin (P : Port) (b : Byte) : (P.writeData b).cspin = P.cspin := rfl
@[simp] theorem Port.writeData_pinset (P : Port) (b : Byte) : (P.writeData b).pinset = P.pinset := rfl
@[simp] theorem Port.writeData_txq (P : Port) (b : Byte) : (P.writeData b).txq = P.txq := rfl
@[simp] theorem Port.writeData_rxq (P : Port) (b : Byte) : (P.writeData b).rxq = P.rxq := rfl
@[simp] theorem Port.writeData_wire (P : Port) (b : Byte) : (P.writeData b).wire = P.wire := rfl
@[simp] theorem Port.writeData_drlog (P : Port) (b : Byte) : (P.writeData b).drlog = P.drlog ++ [b] := rfl
@[simp] theorem Port.emit_configured (P : Port) (f : Frame) : (P.emit f).configured = P.configured := rfl
@[simp] theorem Port.emit_mode (P : Port) (f : Frame) : (P.emit f).mode = P.mode := rfl
@[simp] theorem Port.emit_br (P : Port) (f : Frame) : (P.emit f).br = P.br := rfl
@[simp] theorem Port.emit_spe (P : Port) (f : Frame) : (P.emit f).spe = P.spe := rfl
@[simp] theorem Port.emit_clken (P : Port) (f : Frame) : (P.emit f).clken = P.clken := rfl
@[simp] theorem Port.emit_txeie (P : Port) (f : Frame) : (P.emit f).txeie = P.txeie := rfl
@[simp] theorem Port.emit_rxneie (P : Port) (f : Frame) : (P.emit f).rxneie = P.rxneie := rfl
@[simp] theorem Port.emit_errie (P : Port) (f : Frame) : (P.emit f).errie = P.errie := rfl
@[simp] theorem Port.emit_modf (P : Port) (f : Frame) : (P.emit f).modf = P.modf := rfl
@[simp] theorem Port.emit_errf (P : Port) (f : Frame) : (P.emit f).errf = P.errf := rfl
@[simp] theorem Port.emit_txbuf (P : Port) (f : Frame) : (P.emit f).txbuf = P.txbuf := rfl
@[simp] theorem Port.emit_rxbuf (P : Port) (f : Frame) : (P.emit f).rxbuf = P.rxbuf := rfl
@[simp] theorem Port.emit_shift (P : Port) (f : Frame) : (P.emit f).shift = P.shift := rfl
@[simp] theorem Port.emit_rxcnt (P : Port) (f : Frame) : (P.emit f).rxcnt = P.rxcnt := rfl
@[simp] theorem Port.emit_fill (P : Port) (f : Frame) : (P.emit f).fill = P.fill := rfl
@[simp] theorem Port.emit_taken (P : Port) (f : Frame) : (P.emit f).taken = P.taken := rfl
@[simp] theorem Port.emit_csLevel (P : Port) (f : Frame) : (P.emit f).csLevel = P.csLevel := rfl
@[simp] theorem Port.emit_cspin (P : Port) (f : Frame) : (P.emit f).cspin = P.cspin := rfl
@[simp] theorem Port.emit_pinset (P : Port) (f : Frame) : (P.emit f).pinset = P.pinset := rfl
@[simp] theorem Port.emit_txq (P : Port) (f : Frame) : (P.emit f).txq = P.txq := rfl
@[simp] theorem Port.emit_rxq (P : Port) (f : Frame) : (P.emit f).rxq = P.rxq := rfl
@[simp] theorem Port.emit_wire (P : Port) (f : Frame) : (P.emit f).wire = P.wire ++ [f] := rfl
@[simp] theorem Port.emit_drlog (P : Port) (f : Frame) : (P.emit f).drlog = P.drlog := rfl
@[simp] theorem Port.driveCs_configured (P : Port) (level : Bool) : (P.driveCs level).configured = P.configured := rfl
@[simp] theorem Port.driveCs_mode (P : Port) (level : Bool) : (P.driveCs level).mode = P.mode := rfl
@[simp] theorem Port.driveCs_br (P : Port) (level : Bool) : (P.driveCs level).br = P.br := rfl
@[simp] theorem Port.driveCs_spe (P : Port) (level : Bool) : (P.driveCs level).spe = P.spe := rfl
@[simp] theorem Port.driveCs_clken (P : Port) (level : Bool) : (P.driveCs level).clken = P.clken := rfl
@[simp] theorem Port.driveCs_txeie (P : Port) (level : Bool) : (P.driveCs level).txeie = P.txeie := rfl
@[simp] theorem Port.driveCs_rxneie (P : Port) (level : Bool) : (P.driveCs level).rxneie = P.rxneie := rfl
@[simp] theorem Port.driveCs_errie (P : Port) (level : Bool) : (P.driveCs level).errie = P.errie := rfl
@[simp] theorem Port.driveCs_modf (P : Port) (level : Bool) : (P.driveCs level).modf = P.modf := rfl
@[simp] theorem Port.driveCs_errf (P : Port) (level : Bool) : (P.driveCs level).errf = P.errf := rfl
@[simp] theorem Port.driveCs_txbuf (P : Port) (level : Bool) : (P.driveCs level).txbuf = P.txbuf := rfl
@[simp] theorem Port.driveCs_rxbuf (P : Port) (level : Bool) : (P.driveCs level).rxbuf = P.rxbuf := rfl
@[simp] theorem Port.driveCs_shift (P : Port) (level : Bool) : (P.driveCs level).shift = P.shift := rfl
@[simp] theorem Port.driveCs_rxcnt (P : Port) (level : Bool) : (P.driveCs level).rxcnt = P.rxcnt := rfl
@[simp] theorem Port.driveCs_fill (P : Port) (level : Bool) : (P.driveCs level).fill = P.fill := rfl
@[simp] theorem Port.driveCs_taken (P : Port) (level : Bool) : (P.driveCs level).taken = P.taken := rfl
@[simp] theorem Port.driveCs_csLevel (P : Port) (level : Bool) : (P.driveCs level).csLevel = level := rfl
@[simp] theorem Port.driveCs_cspin (P : Port) (level : Bool) : (P.driveCs level).cspin = P.cspin := rfl
@[simp] theorem Port.driveCs_pinset (P : Port) (level : Bool) : (P.driveCs level).pinset = P.pinset := rfl
@[simp] theorem Port.driveCs_txq (P : Port) (level : Bool) : (P.driveCs level).txq = P.txq := rfl
@[simp] theorem Port.driveCs_rxq (P : Port) (level : Bool) : (P.driveCs level).rxq = P.rxq := rfl
@[simp] theorem Port.driveCs_wire (P : Port) (level : Bool) : (P.driveCs level).wire = P.wire := rfl
@[simp] theorem Port.driveCs_drlog (P : Port) (level : Bool) : (P.driveCs level).drlog = P.drlog := rfl

end Sys2Proof.Machine
end

