-- ==== Sys2Proof/Laws/Ops.lean ====
section
/-! SUPPORT. One lemma for each shared operation, saying what it can do, for the proofs to cite instead of unfolding
it. -/

namespace Sys2Proof.Machine

/-! ### State access -/

theorem State.ports_setPort_self {s : State} {p : Nat} {P : Port} (Q : Port) (h : s.ports[p]? = some P) :
    (s.setPort p Q).ports[p]? = some Q := by
  have hp : p < s.ports.length := (List.getElem?_eq_some_iff.mp h).1
  simp [hp]

theorem State.ports_setPort_ne (s : State) {p q : Nat} (Q : Port) (h : q ≠ p) :
    (s.setPort p Q).ports[q]? = s.ports[q]? := by
  simp [List.getElem?_set_ne h.symm]

/-- Writing back the record a port has changes nothing. -/
theorem State.setPort_same {s : State} {p : Nat} {P : Port} (h : s.ports[p]? = some P) : s.setPort p P = s := by
  obtain ⟨hp, rfl⟩ := List.getElem?_eq_some_iff.mp h
  simp [State.setPort]

theorem callers_modify_self {callers : List Caller} {c : Nat} {C : Caller} (f : Caller → Caller)
    (h : callers[c]? = some C) : (callers.modify c f)[c]? = some (f C) := by
  simp [h]

theorem callers_modify_ne (callers : List Caller) {c c' : Nat} (f : Caller → Caller) (h : c' ≠ c) :
    (callers.modify c f)[c']? = callers[c']? := by
  simp [h.symm]

/-- Modifying a caller that is there is setting it. -/
theorem callers_modify_eq_set {callers : List Caller} {c : Nat} {C : Caller} (f : Caller → Caller)
    (h : callers[c]? = some C) : callers.modify c f = callers.set c (f C) := by
  have hc : c < callers.length := (List.getElem?_eq_some_iff.mp h).1
  apply List.ext_getElem?
  intro i
  by_cases hi : i = c
  · subst hi
    rw [callers_modify_self f h, List.getElem?_set_self hc]
  · rw [callers_modify_ne callers f hi, List.getElem?_set_ne (Ne.symm hi)]

/-- The ranges of the parameters read nothing else of the state. -/
theorem State.paramsInRange_congr {s t : State} (h1 : t.params = s.params) (h2 : t.ports.length = s.ports.length)
    (h3 : t.callers.length = s.callers.length) : t.paramsInRange = s.paramsInRange := by
  simp only [State.paramsInRange, State.numPorts, State.numCallers, h1, h2, h3]

/-! ### Queues and lock -/

theorem queuePush_room {n : Nat} {q : List Byte} (b : Byte) (h : q.length < n) : queuePush n q b = (true, q ++ [b]) := by
  simp [queuePush, h]

theorem queuePush_full {n : Nat} {q : List Byte} (b : Byte) (h : n ≤ q.length) : queuePush n q b = (false, q) := by
  simp [queuePush, Nat.not_lt.mpr h]

/-- A push keeps a queue within its capacity. -/
theorem queuePush_length_le {n : Nat} {q : List Byte} (b : Byte) (h : q.length ≤ n) :
    (queuePush n q b).2.length ≤ n := by
  unfold queuePush
  split
  · simp; omega
  · exact h

/-- What a push to TXQ can do. -/
theorem Port.pushTx_eq (P : Port) (n : Nat) (b : Byte) :
    P.pushTx n b = if P.txq.length < n then some { P with txq := P.txq ++ [b] } else none := by
  by_cases h : P.txq.length < n
  · simp [Port.pushTx, queuePush_room b h, h]
  · simp [Port.pushTx, queuePush_full b (Nat.not_lt.mp h), h]

/-- What a push to RXQ can do. -/
theorem Port.pushRx_eq (P : Port) (n : Nat) (b : Byte) :
    P.pushRx n b = { P with rxq := if P.rxq.length < n then P.rxq ++ [b] else P.rxq } := by
  by_cases h : P.rxq.length < n
  · simp [Port.pushRx, queuePush_room b h, h]
  · simp [Port.pushRx, queuePush_full b (Nat.not_lt.mp h), h]

theorem Port.lockTake_available {P : Port} (h : P.taken = false) : P.lockTake = some { P with taken := true } := by
  simp [Port.lockTake, h]

theorem Port.lockTake_taken {P : Port} (h : P.taken = true) : P.lockTake = none := by
  simp [Port.lockTake, h]

/-- What ending a frame as Aborted leaves: the wire trace with its record, and SHIFT empty. -/
theorem Port.abortFrame_eq (P : Port) :
    P.abortFrame = { P with
      shift := none
      wire := P.wire ++ (match P.shift with
        | some f => [⟨f.mosi, none, f.csStart, P.csLevel, .aborted⟩]
        | none => []) } := by
  unfold Port.abortFrame
  cases h : P.shift <;> simp [Port.abortedFrame, Port.emit, ← h]

/-! ### One step of a command -/

theorem commandStep_idle {i : Instr} {s : State} {C : Caller} {onIssue : Host.Outcome State Fault Refusal}
    {onPhase : Phase → Locals → Host.Outcome State Fault Refusal}
    (h : s.callers[s.actor]? = some C) (hc : C.ctl = .idle) : commandStep i s onIssue onPhase = onIssue := by
  simp [commandStep, h, hc]

theorem commandStep_busy {i : Instr} {s : State} {C : Caller} {phase : Phase} {l : Locals}
    {onIssue : Host.Outcome State Fault Refusal} {onPhase : Phase → Locals → Host.Outcome State Fault Refusal}
    (h : s.callers[s.actor]? = some C) (hc : C.ctl = .busy i phase l) :
    commandStep i s onIssue onPhase = onPhase phase l := by
  simp [commandStep, h, hc]

/-- What a command's step can do when it gives a next state: it issues, it takes its phase, or it is a second command
of a Busy caller and is refused. -/
theorem commandStep_next {i : Instr} {s t : State} {onIssue : Host.Outcome State Fault Refusal}
    {onPhase : Phase → Locals → Host.Outcome State Fault Refusal} (h : commandStep i s onIssue onPhase = .next t) :
    ∃ C, s.callers[s.actor]? = some C ∧
      ((C.ctl = .idle ∧ onIssue = .next t) ∨
        (∃ phase l, C.ctl = .busy i phase l ∧ onPhase phase l = .next t) ∨
        (∃ cmd phase l, C.ctl = .busy cmd phase l ∧ cmd ≠ i ∧ t = s.refuse)) := by
  unfold commandStep at h
  split at h
  · cases h
  · rename_i C hC
    refine ⟨C, hC, ?_⟩
    split at h
    · exact .inl ⟨‹_›, h⟩
    · rename_i cmd phase l hctl
      split at h
      · rename_i heq
        subst heq
        exact .inr (.inl ⟨phase, l, hctl, h⟩)
      · cases h
        exact .inr (.inr ⟨cmd, phase, l, hctl, ‹_›, rfl⟩)
    · cases h

/-- What the prologue can do: reject the port, fault on an unconfigured one, or pass. -/
theorem prologue_cases (i : Instr) (s : State) (onPass : Port → State) :
    (s.ports[i.port.toNat]? = none ∧ prologue i s onPass = s.returnResult s.actor (.plain .invalidArgument)) ∨
    (∃ P, s.ports[i.port.toNat]? = some P ∧ P.configured = false ∧
      prologue i s onPass = s.raiseFault .unconfigured s.actor i.word0) ∨
    (∃ P, s.ports[i.port.toNat]? = some P ∧ P.configured = true ∧ prologue i s onPass = onPass P) := by
  unfold prologue
  cases hP : s.ports[i.port.toNat]? with
  | none => exact .inl ⟨rfl, rfl⟩
  | some P =>
    cases hc : P.configured with
    | false => exact .inr (.inl ⟨P, rfl, hc, by simp [hc]⟩)
    | true => exact .inr (.inr ⟨P, rfl, hc, by simp [hc]⟩)

theorem onPort_some {p : PortId} {s : State} {P : Port} {k : Port → Host.Outcome State Fault Refusal}
    (h : s.ports[p.toNat]? = some P) : onPort p s k = k P := by
  simp [onPort, h]

/-- An effect on a port that gives a next state is that of a port the block has. -/
theorem onPort_next {p : PortId} {s t : State} {k : Port → Host.Outcome State Fault Refusal}
    (h : onPort p s k = .next t) : ∃ P, s.ports[p.toNat]? = some P ∧ k P = .next t := by
  unfold onPort at h
  split at h
  · cases h
  · exact ⟨_, ‹_›, h⟩

end Sys2Proof.Machine
end

