-- ==== Sys2Proof/Laws/Exec.lean ====
section
/-! SUPPORT. What an instruction can do, and what a step can do, said once: the inversion lemmas that the proofs about
all steps go through. -/

namespace Sys2Proof.Machine

/-! ### Names for the effects -/

/-- One phase of a transfer on its port's record. -/
def phaseStep (qcap : Nat) (i : Instr) (phase : Phase) (l : Locals) (P : Port) : Port × Flow :=
  match i with
  | .transmit _ _ =>
    match phase with
    | .tx t => txPhase qcap t l P
    | _ => (P, .ret (.plain .ok))
  | .receive _ n f =>
    match phase with
    | .rx t => rxPhase n f t l P
    | _ => (P, .ret (.plain .ok))
  | .exchange _ _ n => exPhase qcap n phase l P
  | _ => (P, .ret (.plain .ok))

/-- The first phase of a transfer and its temporaries. -/
def firstPhase (i : Instr) : Phase × Locals :=
  match i with
  | .transmit _ payload => (.tx .tx1, .start payload)
  | .receive _ _ _ => (.rx .rx1, .start [])
  | .exchange _ payload _ => (.ex1, .start payload)
  | _ => (.ex1, .start [])

/-- A handler branch on its port's record, and none where it reads an empty data register. -/
def handlerStep (params : Params) (i : Instr) (P : Port) : Option Port :=
  match i with
  | .isrTxe _ => some P.isrTxe
  | .isrRxne _ => P.readData.map fun r => r.2.countReceived params r.1
  | .isrModf _ => some P.isrModf
  | .isrNone _ => some P
  | _ => none

/-- What the issuing step of a command of one phase does to its port, and its result, and which command it is. -/
inductive IssueEffect (params : Params) (i : Instr) (P : Port) : Port → CommandResult → Prop where
  | configure (m : BitVec 2) (k : Nat) (cspin pinset : Word) (hk : params.pmin ≤ k ∧ k ≤ params.pmax)
      (hb : P.configured = true → P.taken = false) (hi : ∃ p mode baud, i = .configure p mode baud cspin pinset) :
      IssueEffect params i P (P.configure m (BitVec.ofNat 3 (k - params.pmin)) cspin pinset) (.plain .ok)
  | setCs (level : Bool) (hc : P.configured = true) (hi : ∃ p, i = .setCs p level) :
      IssueEffect params i P (P.driveCs level) (.plain .ok)
  | getCs (hc : P.configured = true) (hi : ∃ p, i = .getCs p) : IssueEffect params i P P ⟨.ok, P.csLevel, []⟩

/-- What a command can do when it gives a next state. -/
inductive CommandEffect (i : Instr) (s : State) (C : Caller) : State → Prop where
  /-- It rejects its arguments. -/
  | rejects (hc : C.ctl = .idle) : CommandEffect i s C (s.returnResult s.actor (.plain .invalidArgument))
  /-- It raises a fault on a port the block has. -/
  | faults (hc : C.ctl = .idle) (kind : FaultKind) : CommandEffect i s C (s.raiseFault kind s.actor i.word0)
  /-- It is complete in its issuing step. -/
  | completes (hc : C.ctl = .idle) (P P' : Port) (r : CommandResult) (hP : s.hasPort i.port P)
      (he : IssueEffect s.params i P P' r) (ht : i.isTransfer = false) :
      CommandEffect i s C ((s.setPort i.port.toNat P').returnResult s.actor r)
  /-- It is a transfer that goes on to its first phase. -/
  | starts (hc : C.ctl = .idle) (P : Port) (hP : s.hasPort i.port P) (hcfg : P.configured = true)
      (ht : i.isTransfer = true) :
      CommandEffect i s C (s.setCtl s.actor (.busy i (firstPhase i).1 (firstPhase i).2))
  /-- It is a transfer that takes its phase. -/
  | phase (phase : Phase) (l : Locals) (hc : C.ctl = .busy i phase l) (P : Port) (hP : s.hasPort i.port P)
      (ht : i.isTransfer = true) (hf : phase.fits i = true) :
      CommandEffect i s C ((s.setPort i.port.toNat (phaseStep s.params.qcap i phase l P).1).follow s.actor i
        (phaseStep s.params.qcap i phase l P).2)
  /-- It is a second command of a Busy caller. -/
  | refuses (cmd : Instr) (phase : Phase) (l : Locals) (hc : C.ctl = .busy cmd phase l) (hne : cmd ≠ i) :
      CommandEffect i s C s.refuse

/-! ### Instructions -/

/-- What a divisor in range is. -/
theorem prescale_range {params : Params} {f b k : Nat} (h : prescale params f b = some k) :
    params.pmin ≤ k ∧ k ≤ params.pmax := by
  unfold prescale at h
  split at h
  · cases h
  · simp only at h
    split at h
    · cases h
    · split at h
      · cases h
      · cases h
        omega

theorem phaseEffect_next {cmd : Instr} {s t : State} {effect : Port → Port × Flow}
    (h : phaseEffect cmd s effect = .next t) :
    ∃ P, s.hasPort cmd.port P ∧ t = (s.setPort cmd.port.toNat (effect P).1).follow s.actor cmd (effect P).2 := by
  obtain ⟨P, hP, h⟩ := onPort_next h
  cases h
  exact ⟨P, hP, rfl⟩

/-- Every command that gives a next state is one of `CommandEffect`'s cases. -/
theorem exec_command {s t : State} {i : Instr} (hi : i.isCommand = true) (h : exec i s = .next t) :
    ∃ C, s.callers[s.actor]? = some C ∧ CommandEffect i s C t := by
  cases i with
  | configure p mode baud cspin pinset =>
    obtain ⟨C, hC, ⟨hc, h⟩ | ⟨_, _, _, h⟩ | ⟨cmd, ph, l, hc, hne, rfl⟩⟩ := commandStep_next h
    · refine ⟨C, hC, ?_⟩
      cases h
      unfold configureIssue
      split
      · exact .rejects hc
      · rename_i P hP
        split
        · exact .rejects hc
        · split
          · exact .rejects hc
          · rename_i k hk
            split
            · exact .faults hc _
            · rename_i m hm hb
              refine .completes hc P _ _ hP (.configure _ k cspin pinset (prescale_range hk) ?_ ⟨_, _, _, rfl⟩) rfl
              intro hcf
              simp [State.configBusy, hcf] at hb
              exact hb.1
    · cases h
    · exact ⟨C, hC, .refuses cmd ph l hc hne⟩
  | transmit p payload =>
    obtain ⟨C, hC, ⟨hc, h⟩ | ⟨ph, l, hc, h⟩ | ⟨cmd, ph, l, hc, hne, rfl⟩⟩ := commandStep_next h
    · refine ⟨C, hC, ?_⟩
      cases h
      rcases prologue_cases (.transmit p payload) s _ with ⟨-, e⟩ | ⟨P, hP, -, e⟩ | ⟨P, hP, hcf, e⟩ <;> rw [e]
      · exact .rejects hc
      · exact .faults hc _
      · exact .starts hc P hP hcf rfl
    · cases ph with
      | tx ph =>
        obtain ⟨P, hP, rfl⟩ := phaseEffect_next h
        exact ⟨C, hC, .phase _ l hc P hP rfl rfl⟩
      | _ => cases h
    · exact ⟨C, hC, .refuses cmd ph l hc hne⟩
  | receive p n f =>
    obtain ⟨C, hC, ⟨hc, h⟩ | ⟨ph, l, hc, h⟩ | ⟨cmd, ph, l, hc, hne, rfl⟩⟩ := commandStep_next h
    · refine ⟨C, hC, ?_⟩
      cases h
      rcases prologue_cases (.receive p n f) s _ with ⟨-, e⟩ | ⟨P, hP, -, e⟩ | ⟨P, hP, hcf, e⟩ <;> rw [e]
      · exact .rejects hc
      · exact .faults hc _
      · exact .starts hc P hP hcf rfl
    · cases ph with
      | rx ph =>
        obtain ⟨P, hP, rfl⟩ := phaseEffect_next h
        exact ⟨C, hC, .phase _ l hc P hP rfl rfl⟩
      | _ => cases h
    · exact ⟨C, hC, .refuses cmd ph l hc hne⟩
  | exchange p payload n =>
    obtain ⟨C, hC, ⟨hc, h⟩ | ⟨ph, l, hc, h⟩ | ⟨cmd, ph, l, hc, hne, rfl⟩⟩ := commandStep_next h
    · refine ⟨C, hC, ?_⟩
      cases h
      rcases prologue_cases (.exchange p payload n) s _ with ⟨-, e⟩ | ⟨P, hP, -, e⟩ | ⟨P, hP, hcf, e⟩ <;> rw [e]
      · exact .rejects hc
      · exact .faults hc _
      · exact .starts hc P hP hcf rfl
    · obtain ⟨P, hP, rfl⟩ := phaseEffect_next h
      refine ⟨C, hC, .phase _ l hc P hP rfl ?_⟩
      cases ph <;> rfl
    · exact ⟨C, hC, .refuses cmd ph l hc hne⟩
  | setCs p level =>
    obtain ⟨C, hC, ⟨hc, h⟩ | ⟨_, _, _, h⟩ | ⟨cmd, ph, l, hc, hne, rfl⟩⟩ := commandStep_next h
    · refine ⟨C, hC, ?_⟩
      cases h
      rcases prologue_cases (.setCs p level) s _ with ⟨-, e⟩ | ⟨P, hP, -, e⟩ | ⟨P, hP, hcf, e⟩ <;> rw [e]
      · exact .rejects hc
      · exact .faults hc _
      · exact .completes hc P _ _ hP (.setCs level hcf ⟨_, rfl⟩) rfl
    · cases h
    · exact ⟨C, hC, .refuses cmd ph l hc hne⟩
  | getCs p =>
    obtain ⟨C, hC, ⟨hc, h⟩ | ⟨_, _, _, h⟩ | ⟨cmd, ph, l, hc, hne, rfl⟩⟩ := commandStep_next h
    · refine ⟨C, hC, ?_⟩
      cases h
      rcases prologue_cases (.getCs p) s _ with ⟨-, e⟩ | ⟨P, hP, -, e⟩ | ⟨P, hP, hcf, e⟩ <;> rw [e]
      · exact .rejects hc
      · exact .faults hc _
      · have := CommandEffect.completes hc P P _ hP (IssueEffect.getCs (params := s.params) (i := .getCs p) hcf ⟨_, rfl⟩) rfl
        rwa [State.setPort_same hP] at this
    · cases h
    · exact ⟨C, hC, .refuses cmd ph l hc hne⟩
  | _ => cases hi

/-- Every handler branch that gives a next state writes one record of its port, and nothing else. -/
theorem exec_handler {s t : State} {i : Instr} (hi : i.isCommand = false) (h : exec i s = .next t) :
    ∃ P P', s.hasPort i.port P ∧ handlerStep s.params i P = some P' ∧ t = s.setPort i.port.toNat P' := by
  cases i with
  | isrTxe p =>
    obtain ⟨P, hP, h⟩ := onPort_next h
    cases h
    exact ⟨P, _, hP, rfl, rfl⟩
  | isrRxne p =>
    obtain ⟨P, hP, h⟩ := onPort_next h
    cases hb : P.rxbuf with
    | none => simp [Port.readData, hb] at h
    | some b =>
      simp only [Port.readData, hb, Option.map_some] at h
      cases h
      exact ⟨P, _, hP, by simp [handlerStep, Port.readData, hb], rfl⟩
  | isrModf p =>
    obtain ⟨P, hP, h⟩ := onPort_next h
    cases h
    exact ⟨P, _, hP, rfl, rfl⟩
  | isrNone p =>
    obtain ⟨P, hP, h⟩ := onPort_next h
    cases h
    exact ⟨P, P, hP, rfl, (State.setPort_same hP).symm⟩
  | _ => cases hi

/-- What a word sequence decodes to is a command. -/
theorem decodeCommand_isCommand {ws rest : List Word} {i : Instr} (h : decodeCommand ws = .ok (i, rest)) :
    i.isCommand = true := by
  unfold decodeCommand at h
  split at h
  · cases h
  · split at h
    · unfold decodeConfigure at h
      repeat' split at h
      all_goals cases h
      rfl
    · unfold decodeTransmit at h
      repeat' split at h
      all_goals cases h
      rfl
    · cases h
      rfl
    · unfold decodeExchange at h
      repeat' split at h
      all_goals cases h
      rfl
    · unfold decodeSetCs at h
      split at h <;> cases h
      rfl
    · unfold decodeGetCs at h
      split at h <;> cases h
      rfl
    · cases h

/-- A command names the port of its word 0. -/
theorem decodeCommand_port {w : Word} {ws rest : List Word} {i : Instr} (h : decodeCommand (w :: ws) = .ok (i, rest)) :
    i.port = portOf w := by
  simp only [decodeCommand, decodeConfigure, decodeTransmit, decodeReceive, decodeExchange, decodeSetCs,
    decodeGetCs] at h
  repeat' split at h
  all_goals cases h
  all_goals rfl

/-! ### Moves -/

/-- What a caller's move can do. -/
theorem callerMove_next {c : Nat} {s t : State} (h : callerMove c s = .next t) :
    t = s ∨ ∃ C, s.callers[c]? = some C ∧ s.anyPending = false ∧
      ((∃ cmd phase l, C.ctl = .busy cmd phase l ∧ exec cmd (s.setActor c) = .next t) ∨
        (C.ctl = .idle ∧ ∃ i rest, decodeCommand C.stream = .ok (i, rest) ∧
          exec i ((s.setActor c).setStream c rest) = .next t) ∨
        (C.ctl = .idle ∧ ∃ e, decodeCommand C.stream = .error e ∧
          t = (s.setActor c).raiseFault .illegalCommand c (C.stream.headD 0))) := by
  unfold callerMove at h
  split at h
  · rename_i he
    split at h
    · cases h; exact .inl rfl
    · rename_i C hC
      have hp : s.anyPending = false := by
        simp [State.callerEnabled] at he
        exact he.1
      split at h
      · exact .inr ⟨C, hC, hp, .inl ⟨_, _, _, ‹_›, h⟩⟩
      · cases h; exact .inl rfl
      · split at h
        · exact .inr ⟨C, hC, hp, .inr (.inl ⟨‹_›, _, _, ‹_›, h⟩)⟩
        · cases h
          exact .inr ⟨C, hC, hp, .inr (.inr ⟨‹_›, _, ‹_›, rfl⟩)⟩
  · cases h; exact .inl rfl

/-- The branch that a cause vector selects is a handler branch of the port. -/
theorem decodeCause_branch {p : PortId} {cv : BitVec 4} {i : Instr} (h : decodeCause p cv = some i) :
    i.isCommand = false ∧ i.port = p := by
  unfold decodeCause at h
  repeat' split at h
  all_goals cases h
  all_goals exact ⟨rfl, rfl⟩

/-- What a firing can do. -/
theorem isrMove_next {p : Nat} {s t : State} (h : isrMove p s = .next t) :
    t = s ∨ ∃ P i, s.ports[p]? = some P ∧ decodeCause (BitVec.ofNat 4 p) P.cv = some i ∧ exec i s = .next t := by
  unfold isrMove at h
  split at h
  · cases h; exact .inl rfl
  · split at h
    · exact .inr ⟨_, _, ‹_›, ‹_›, h⟩
    · cases h; exact .inl rfl

/-- What a move of the shift engine can do. -/
theorem peripheralMove_next {p : Nat} {m : Byte} {s t : State} (h : peripheralMove p m s = .next t) :
    t = s ∨ ∃ P P', s.ports[p]? = some P ∧ P.periphStep m = some P' ∧ t = s.setPort p P' := by
  unfold peripheralMove at h
  split at h
  · cases h; exact .inl rfl
  · split at h
    · cases h; exact .inl rfl
    · split at h
      · cases h; exact .inr ⟨_, _, ‹_›, ‹_›, rfl⟩
      · cases h

/-- What a bus event can do. -/
theorem environmentMove_cases (p : Nat) (event : Port → Port) (s : State) :
    environmentMove p event s = s ∨
      ∃ P, s.ports[p]? = some P ∧ P.clken = true ∧ environmentMove p event s = s.setPort p (event P) := by
  unfold environmentMove
  split
  · exact .inl rfl
  · split
    · exact .inr ⟨_, ‹_›, ‹_›, rfl⟩
    · exact .inl rfl

/-- What a step can do: refuse a model out of range, or take the next move. -/
theorem step_next {s t : State} (h : step s = .next t) :
    s.refused = false ∧
      ((s.paramsInRange = false ∧ t = s.refuse) ∨
        (s.paramsInRange = true ∧ runMove s.nextMove s.takeMove = .next t)) := by
  unfold step nextStep at h
  split at h
  · cases h
  · rename_i hr
    refine ⟨by simpa using hr, ?_⟩
    split at h
    · exact .inr ⟨‹_›, h⟩
    · rename_i hp
      cases h
      exact .inl ⟨by simpa using hp, rfl⟩

/-- A step that takes a move runs it. -/
theorem step_of_takesMove {s : State} (h : s.takesMove) : step s = runMove s.nextMove s.takeMove := by
  simp [step, nextStep, h.1, h.2]

/-- Taking the next move off changes the inputs alone. -/
theorem State.takeMove_eq (s : State) :
    ∃ agenda draws, s.takeMove = { s with agenda := agenda, draws := draws } := by
  unfold State.takeMove
  split
  · exact ⟨_, s.draws, rfl⟩
  · exact ⟨s.agenda, _, rfl⟩

/-! ### What a step can do to one port -/

/-- What one step can do to a port's record: nothing, or one of the block's effects on it. -/
inductive PortEffect (params : Params) (P : Port) : Port → Prop where
  | same : PortEffect params P P
  | configure (m : BitVec 2) (br : BitVec 3) (cspin pinset : Word) : PortEffect params P (P.configure m br cspin pinset)
  | driveCs (level : Bool) : PortEffect params P (P.driveCs level)
  | phase (i : Instr) (phase : Phase) (l : Locals) (hf : phase.fits i = true) :
      PortEffect params P (phaseStep params.qcap i phase l P).1
  | handler (i : Instr) (P' : Port) (h : handlerStep params i P = some P') : PortEffect params P P'
  | periph (m : Byte) (P' : Port) (h : P.periphStep m = some P') : PortEffect params P P'
  | modeFault : PortEffect params P P.modeFault
  | busError : PortEffect params P P.busError

theorem State.follow_ports (s : State) (c : Nat) (cmd : Instr) (flow : Flow) :
    (s.follow c cmd flow).ports = s.ports := by
  cases flow <;> rfl

theorem PortEffect.of_setPort {params : Params} {u : State} {p q : Nat} {P P' Q X : Port} (hq : u.ports[q]? = some Q)
    (hP : u.ports[p]? = some P) (h : (u.setPort q X).ports[p]? = some P') (he : PortEffect params Q X) :
    PortEffect params P P' := by
  by_cases e : p = q
  · subst e
    rw [State.ports_setPort_self _ hq] at h
    cases h
    rw [hP] at hq
    cases hq
    exact he
  · rw [State.ports_setPort_ne _ _ e, hP] at h
    cases h
    exact .same

/-- What an instruction can do to a port. -/
theorem exec_portEffect {s t : State} {i : Instr} {p : Nat} {P P' : Port} (h : exec i s = .next t)
    (hP : s.ports[p]? = some P) (hP' : t.ports[p]? = some P') : PortEffect s.params P P' := by
  have same : t.ports = s.ports → PortEffect s.params P P' := by
    intro e
    rw [e, hP] at hP'
    cases hP'
    exact .same
  cases hi : i.isCommand with
  | true =>
    obtain ⟨C, hC, he⟩ := exec_command hi h
    cases he with
    | rejects => exact same rfl
    | faults => exact same rfl
    | completes hc Q X r hQ hie ht =>
      refine .of_setPort hQ hP (P' := P') hP' ?_
      cases hie with
      | configure => exact .configure _ _ _ _
      | setCs => exact .driveCs _
      | getCs => exact .same
    | starts => exact same rfl
    | phase ph l hc Q hQ ht hf =>
      rw [State.follow_ports] at hP'
      exact .of_setPort hQ hP hP' (.phase _ _ _ hf)
    | refuses => exact same rfl
  | false =>
    obtain ⟨Q, X, hQ, hh, rfl⟩ := exec_handler hi h
    exact .of_setPort hQ hP hP' (.handler _ _ hh)

/-- What a step can do to a port. -/
theorem step_portEffect {s t : State} {p : Nat} {P P' : Port} (h : step s = .next t)
    (hP : s.ports[p]? = some P) (hP' : t.ports[p]? = some P') : PortEffect s.params P P' := by
  have same : t.ports = s.ports → PortEffect s.params P P' := by
    intro e
    rw [e, hP] at hP'
    cases hP'
    exact .same
  obtain ⟨hr, ⟨hp, rfl⟩ | ⟨hpr, hm⟩⟩ := step_next h
  · exact same rfl
  · obtain ⟨a, d, e⟩ := s.takeMove_eq
    rw [e] at hm
    cases hn : s.nextMove with
    | caller c =>
      rw [hn] at hm
      replace hm : callerMove c _ = .next t := hm
      rcases callerMove_next hm with rfl | ⟨C, -, -, ⟨_, _, _, -, hx⟩ | ⟨-, _, _, -, hx⟩ | ⟨-, _, -, rfl⟩⟩
      · exact same rfl
      · exact exec_portEffect (s := State.setActor { s with agenda := a, draws := d } c) hx hP hP'
      · exact exec_portEffect (s := State.setStream (State.setActor { s with agenda := a, draws := d } c) c _) hx hP hP'
      · exact same rfl
    | isr q =>
      rw [hn] at hm
      replace hm : isrMove q _ = .next t := hm
      rcases isrMove_next hm with rfl | ⟨Q, i, -, -, hx⟩
      · exact same rfl
      · exact exec_portEffect (s := { s with agenda := a, draws := d }) hx hP hP'
    | periph q m =>
      rw [hn] at hm
      replace hm : peripheralMove q m _ = .next t := hm
      rcases peripheralMove_next hm with rfl | ⟨Q, X, hQ, hx, rfl⟩
      · exact same rfl
      · exact .of_setPort hQ hP hP' (.periph _ _ hx)
    | modeFault q =>
      rw [hn] at hm
      cases hm
      rcases environmentMove_cases q Port.modeFault { s with agenda := a, draws := d } with e | ⟨Q, hQ, -, e⟩
      · exact same (by rw [e])
      · rw [e] at hP'
        exact .of_setPort hQ hP hP' .modeFault
    | busError q =>
      rw [hn] at hm
      cases hm
      rcases environmentMove_cases q Port.busError { s with agenda := a, draws := d } with e | ⟨Q, hQ, -, e⟩
      · exact same (by rw [e])
      · rw [e] at hP'
        exact .of_setPort hQ hP hP' .busError
    | callFromInterrupt q =>
      rw [hn] at hm
      cases hm
      apply same
      unfold callFromInterruptMove
      repeat' split
      all_goals rfl
    | callWhileBusy c =>
      rw [hn] at hm
      cases hm
      apply same
      unfold callWhileBusyMove
      repeat' split
      all_goals rfl

end Sys2Proof.Machine
end

