-- ==== Sys2Proof/Laws/PerInstr.lean ====
section
/-! SUPPORT. Statements about every instruction as syntax, one lemma for each constructor. -/

namespace Sys2Proof.Laws.Codes

/-- A command's word 0 carries its port in PORT and an operation code of `30_encoding.md` rule R135 in OP; a handler
branch has no word, and the cause vector with its one bit set selects it (rule R151). -/
def Statement (i : Instr) : Prop :=
  if i.isCommand then portOf i.word0 = i.port ∧ 1 ≤ (opOf i.word0).toNat ∧ (opOf i.word0).toNat ≤ 6 ∧ encodeCause i = 0
  else i.word0 = 0 ∧ decodeCause i.port (encodeCause i) = some i

theorem command {i : Instr} {op : BitVec 4} {imm : Byte} {len : BitVec 16} (hc : i.isCommand = true)
    (hw : i.word0 = commandWord op i.port imm len) (h1 : 1 ≤ op.toNat) (h6 : op.toNat ≤ 6) (he : encodeCause i = 0) :
    Statement i := by
  rw [Statement, if_pos hc, hw, portOf_commandWord, opOf_commandWord]
  exact ⟨rfl, h1, h6, he⟩

theorem configure (p : PortId) (m : Byte) (b c q : Word) : Statement (.configure p m b c q) :=
  command rfl rfl (by decide) (by decide) rfl

theorem transmit (p : PortId) (bs : List Byte) : Statement (.transmit p bs) :=
  command rfl rfl (by decide) (by decide) rfl

theorem receive (p : PortId) (n : BitVec 16) (f : Byte) : Statement (.receive p n f) :=
  command rfl rfl (by decide) (by decide) rfl

theorem exchange (p : PortId) (bs : List Byte) (n : BitVec 16) : Statement (.exchange p bs n) :=
  command rfl rfl (by decide) (by decide) rfl

theorem setCs (p : PortId) (level : Bool) : Statement (.setCs p level) :=
  command rfl rfl (by decide) (by decide) rfl

theorem getCs (p : PortId) : Statement (.getCs p) := command rfl rfl (by decide) (by decide) rfl

theorem isrTxe (p : PortId) : Statement (.isrTxe p) := ⟨rfl, by revert p; decide⟩

theorem isrRxne (p : PortId) : Statement (.isrRxne p) := ⟨rfl, by revert p; decide⟩

theorem isrModf (p : PortId) : Statement (.isrModf p) := ⟨rfl, by revert p; decide⟩

theorem isrNone (p : PortId) : Statement (.isrNone p) := ⟨rfl, by revert p; decide⟩

end Sys2Proof.Laws.Codes
end

