-- ==== Sys2Proof/Tests/Slice0.lean ====
section
/-! SUPPORT. Tests on fixed values, their expected results from `spec/95_test_vectors.md` and the encodings of
`spec/30_encoding.md`, and for each statement with hypotheses a witness that meets them. -/

namespace Sys2Proof.Tests

open Sys2Proof.Machine

/-! ### Small states -/

/-- A port in the configured idle state (`70_reset_and_hazards.md` rule R393), with MODE 0 and BR 0. -/
def idlePort : Port := { Port.reset true with configured := true, clken := true }

/-- Two callers and two ports; caller 0's record is `ctl` with stream `ws`, and port 0 is `P`. -/
def state (P : Port) (ctl : CallerState) (ws : List Word) (agenda : List Move) : State :=
  { State.resetWith Config.vectorParams [true, false] 2 with
    ports := [P, Port.reset false]
    callers := [⟨ctl, ws, []⟩, ⟨.idle, [], []⟩]
    agenda := agenda }

/-- Caller 0 issues the words on port 0's record `P`. -/
def issue (P : Port) (ws : List Word) : Host.Outcome State Fault Refusal := step (state P .idle ws [.caller 0])

/-- Caller 0 takes the phase on port 0's record `P`. -/
def phase (P : Port) (i : Instr) (ph : Phase) (l : Locals) : Host.Outcome State Fault Refusal :=
  step (state P (.busy i ph l) [] [.caller 0])

/-- Port 0's handler fires on its record `P`. -/
def fire (P : Port) : Host.Outcome State Fault Refusal := step (state P .idle [] [.isr 0])

/-- Port 0 after. -/
def port0 (o : Host.Outcome State Fault Refusal) : Option Port :=
  match o with
  | .next t => t.ports[0]?
  | _ => none

/-- Caller 0 after: its record, and the words of its results. -/
def caller0 (o : Host.Outcome State Fault Refusal) : Option (CallerState × List (List Word)) :=
  match o with
  | .next t => t.callers[0]?.map fun C => (C.ctl, C.results.map CommandResult.words)
  | _ => none

/-- The fault records after. -/
def faults (o : Host.Outcome State Fault Refusal) : Option (List FaultRecord) :=
  match o with
  | .next t => some t.faults
  | _ => none

/-! ### WellFormed -/

theorem fits_replicate (n : Nat) : payloadFits (List.replicate n 0) = decide (n < 65536) := by
  simp [payloadFits]

/-- A payload of 65536 bytes has no length in 16 bits. -/
theorem test_wellFormed_refuses_long_transmit : ¬(Instr.transmit 0 (List.replicate 65536 0)).WellFormed := by
  show ¬payloadFits _ = true
  rw [fits_replicate]
  decide

theorem test_wellFormed_refuses_long_exchange : ¬(Instr.exchange 0 (List.replicate 65536 0) 1).WellFormed := by
  show ¬payloadFits _ = true
  rw [fits_replicate]
  decide

theorem test_wellFormed_admits_longest : (Instr.transmit 0 (List.replicate 65535 0)).WellFormed := by
  show payloadFits _ = true
  rw [fits_replicate]
  decide

/-! ### Decoding: words written out from rules R131 to R142, and the illegal rows E1 to E8 -/

/-- PORT 15, MODE 0xA5, BAUD, CSPIN and PINSET. -/
theorem test_decode_configure :
    decodeCommand [0b0000000000000000_10100101_1111_0001, 0xFFFFFFFF, 7, 9, 0x16] =
      .ok (.configure 15 0xA5 0xFFFFFFFF 7 9, [0x16]) := by decide

/-- PORT 9, LEN 5: two payload words. -/
theorem test_decode_transmit :
    decodeCommand [0b0000000000000101_00000000_1001_0010, 0x04030201, 0x00000005, 0x16] =
      .ok (.transmit 9 [1, 2, 3, 4, 5], [0x16]) := by decide

/-- PORT 6, LEN 0x8001, FILL 0xC3. -/
theorem test_decode_receive :
    decodeCommand [0b1000000000000001_11000011_0110_0011] = .ok (.receive 6 0x8001 0xC3, []) := by decide

/-- PORT 3, receive length 0x8002, TXLEN 4. -/
theorem test_decode_exchange :
    decodeCommand [0b1000000000000010_00000000_0011_0100, 0x00000004, 0x44332211] =
      .ok (.exchange 3 [0x11, 0x22, 0x33, 0x44] 0x8002, []) := by decide

theorem test_decode_setCs : decodeCommand [0b0000000000000000_00000001_1000_0101] = .ok (.setCs 8 true, []) := by decide

theorem test_decode_getCs : decodeCommand [0b0000000000000000_00000000_0101_0110] = .ok (.getCs 5, []) := by decide

/-- Every one of the 16 cause vectors, by the rows of rule R151. -/
theorem test_decode_cause : ∀ cv : BitVec 4, decodeCause 2 cv =
    match cv.toNat with
    | 0 => none
    | 2 => some (.isrRxne 2)
    | 6 => some (.isrRxne 2)
    | 10 => some (.isrRxne 2)
    | 14 => some (.isrRxne 2)
    | 4 => some (.isrModf 2)
    | 12 => some (.isrModf 2)
    | 8 => some (.isrNone 2)
    | _ => some (.isrTxe 2) := by decide

/-- Rows E1 to E8, and a reserved OP 0x7 with other fields set. -/
theorem test_decode_illegal :
    decodeCommand [0x00000000] = .error .reservedOp ∧ decodeCommand [0x00000007] = .error .reservedOp ∧
    decodeCommand [0x0000000F] = .error .reservedOp ∧ decodeCommand [0xFFFFFFF7] = .error .reservedOp ∧
    decodeCommand [0x00010001, 0, 0, 0] = .error .reservedField ∧
    decodeCommand [0x00010102, 0x0000007E] = .error .reservedField ∧
    decodeCommand [0x00010002, 0x0000FF7E] = .error .nonZeroPadding ∧
    decodeCommand [0x00000205] = .error .reservedField ∧
    decodeCommand [0x00040004, 0x00010001, 0x0000009F] = .error .reservedField := by decide

/-- The rows of the opcode table. -/
theorem test_decode_table :
    decodeTableWord 32 0x00000001 = some (.configure 0 0 0 0 0) ∧ decodeTableWord 32 0x00000002 = some (.transmit 0 []) ∧
    decodeTableWord 32 0x00000003 = some (.receive 0 0 0) ∧ decodeTableWord 32 0x00000004 = some (.exchange 0 [] 0) ∧
    decodeTableWord 32 0x00000105 = some (.setCs 0 true) ∧ decodeTableWord 32 0x00000006 = some (.getCs 0) ∧
    decodeTableWord 8 0x1 = some (.isrTxe 0) ∧ decodeTableWord 8 0x2 = some (.isrRxne 0) ∧
    decodeTableWord 8 0x4 = some (.isrModf 0) ∧ decodeTableWord 8 0x8 = some (.isrNone 0) := by decide

/-! ### CONFIGURE -/

/-- Rows K1 to K12, K16 and K17. -/
theorem test_prescale :
    let f := prescale Config.vectorParams 8000000
    let g := prescale Config.vectorParams 72000000
    f 1000000 = some 3 ∧ f 4000000 = some 1 ∧ f 3000000 = some 1 ∧ f 1500000 = some 3 ∧ f 2000000 = some 2 ∧
    f 31250 = some 8 ∧ f 31249 = some 8 ∧ f 31000 = none ∧ f 5000000 = none ∧ f 8000000 = none ∧ f 9000000 = none ∧
    f 0 = none ∧ g 281250 = some 8 ∧ g 280000 = none := by decide

/-- Row K18. -/
theorem test_configure_again :
    port0 (issue { idlePort with csLevel := false, txq := [1] } [0x00000301, 0x000F4240, 7, 9]) =
      some { idlePort with mode := 3, br := 2, cspin := 7, pinset := 9 } := by decide

/-- Rows K13 and K15: the mode is rejected, and nothing changes. -/
theorem test_configure_bad_mode :
    caller0 (issue (Port.reset true) [0x00000401, 0x000F4240, 0, 0]) = some (.idle, [[0x00000001]]) ∧
    port0 (issue (Port.reset true) [0x00000401, 0, 0, 0]) = some (Port.reset true) := by decide

/-! ### TRANSMIT -/

/-- Row T3: the fifth push finds TXQ full, and TXF1 follows. -/
theorem test_transmit_full :
    caller0 (phase { idlePort with taken := true, txq := [1, 2, 3, 4] } (.transmit 0 [1, 2, 3, 4, 5]) (.tx .tx2)
      ⟨[5], .ok, []⟩) =
      some (.busy (.transmit 0 [1, 2, 3, 4, 5]) (.tx .txf1) ⟨[5], .ok, []⟩, []) := by decide

/-- Row T4: an unconfigured port faults with word 0, and the caller is Stopped. -/
theorem test_transmit_unconfigured :
    faults (issue (Port.reset true) [0x00010002, 0x0000007E]) = some [⟨.unconfigured, 0, 0x00010002⟩] ∧
    caller0 (issue (Port.reset true) [0x00010002, 0x0000007E]) = some (.stopped, []) := by decide

/-! ### RECEIVE -/

/-- Row V1: RX7 gives the words 0x00030000, 0x00332211 and gives the lock. -/
theorem test_receive_result :
    caller0 (phase { idlePort with taken := true } (.receive 0 4 0) (.rx .rx7) ⟨[], .ok, [0x11, 0x22, 0x33]⟩) =
      some (.idle, [[0x00030000, 0x00332211]]) := by decide

/-- Row W3, step 14: RXA2 stops the bus and clears RXBUF; RXCNT stays 2. -/
theorem test_receive_abandon :
    port0 (phase { idlePort with taken := true, spe := true, rxbuf := some 0x22, rxcnt := 2, shift := some ⟨0, true, true⟩ }
      (.receive 0 4 0) (.rx .rxa2) ⟨[], .ok, []⟩) =
      some { idlePort with taken := true, rxcnt := 2, shift := some ⟨0, false, true⟩ } := by decide

/-! ### EXCHANGE -/

/-- Row X3: the inner TRANSMIT's RESOURCE_EXHAUSTED skips the RECEIVE. -/
theorem test_exchange_skips_receive :
    caller0 (phase { idlePort with taken := true } (.exchange 0 [1, 2, 3, 4, 5] 2) (.tx .txf2) ⟨[5], .ok, []⟩) =
      some (.busy (.exchange 0 [1, 2, 3, 4, 5] 2) .ex5 ⟨[5], .resourceExhausted, []⟩, []) := by decide

/-- Row X1: EX5 drives the line high and gives the words 0x00030000, 0x001840EF. -/
theorem test_exchange_result :
    let o := phase { idlePort with csLevel := false } (.exchange 0 [0x9F] 4) .ex5 ⟨[], .ok, [0xEF, 0x40, 0x18]⟩
    caller0 o = some (.idle, [[0x00030000, 0x001840EF]]) ∧ port0 o = some idlePort := by decide

/-! ### SET_CS and GET_CS -/

/-- Rows S1 and S6. -/
theorem test_setCs :
    port0 (issue idlePort [0x00000005]) = some { idlePort with csLevel := false } ∧
    caller0 (issue idlePort [0x00000055]) = some (.idle, [[0x00000001]]) := by decide

/-- Rows S4, S2 and E10. -/
theorem test_getCs :
    caller0 (issue idlePort [0x00000006]) = some (.idle, [[0x00000100]]) ∧
    caller0 (issue { idlePort with csLevel := false } [0x00000006]) = some (.idle, [[0x00000000]]) ∧
    caller0 (issue idlePort [0x00000056]) = some (.idle, [[0x00000001]]) := by decide

/-! ### The handler: rows H1, H2, H4 to H11 -/

theorem test_isrTxe_moves :
    port0 (fire { idlePort with txeie := true, txq := [0x55, 0x01] }) =
      some { idlePort with txeie := true, txq := [0x01], txbuf := some 0x55, drlog := [0x55] } := by decide

theorem test_isrTxe_completes :
    port0 (fire { idlePort with txeie := true, errie := true, spe := true, taken := true, shift := some ⟨1, false, true⟩ }) =
      some { idlePort with shift := some ⟨1, false, true⟩ } := by decide

theorem test_isrRxne_completes :
    port0 (fire { idlePort with
      rxneie := true
      errie := true
      rxbuf := some 0x44
      rxcnt := 1
      rxq := [0x11, 0x22, 0x33]
      spe := true
      taken := true }) = some { idlePort with rxq := [0x11, 0x22, 0x33] } := by decide

theorem test_isrRxne_wraps :
    port0 (fire { idlePort with rxneie := true, rxbuf := some 0x99 }) =
      some { idlePort with rxneie := true, rxcnt := 0xFFFF, rxq := [0x99] } := by decide

theorem test_isrModf :
    port0 (fire { idlePort with errie := true, modf := true, errf := true }) =
      some { idlePort with errie := true, errf := true, spe := true } := by decide

theorem test_isrNone :
    port0 (fire { idlePort with errie := true, errf := true }) = some { idlePort with errie := true, errf := true } := by
  decide

theorem test_isr_priority :
    port0 (fire { idlePort with txeie := true, rxneie := true, rxbuf := some 0x12, txq := [0x34] }) =
      some { idlePort with txeie := true, rxneie := true, rxbuf := some 0x12, txbuf := some 0x34, drlog := [0x34] } := by
  decide

/-! ### The shift engine and the bus events: rows P1 to P7 and P9 -/

theorem test_periph :
    let p := fun P m => port0 (step (state P .idle [] [.periph 0 m]))
    p { idlePort with spe := true, txbuf := some 0x5A, csLevel := false } 0 =
      some { idlePort with spe := true, shift := some ⟨0x5A, false, false⟩, csLevel := false } ∧
    p { idlePort with spe := true, rxneie := true, fill := 0xFF } 0 =
      some { idlePort with spe := true, rxneie := true, fill := 0xFF, shift := some ⟨0xFF, true, true⟩ } ∧
    p { idlePort with spe := true, rxneie := true, rxbuf := some 0x12 } 0 =
      some { idlePort with spe := true, rxneie := true, rxbuf := some 0x12 } ∧
    p { idlePort with shift := some ⟨0xFF, true, false⟩, csLevel := false } 0x3C =
      some { idlePort with rxbuf := some 0x3C, csLevel := false, wire := [⟨0xFF, some 0x3C, false, false, .complete⟩] } ∧
    p { idlePort with shift := some ⟨0xFF, true, false⟩, rxbuf := some 0x12, csLevel := false } 0x3C =
      some { idlePort with
        errf := true
        rxbuf := some 0x12
        csLevel := false
        wire := [⟨0xFF, some 0x3C, false, false, .complete⟩] } ∧
    p { idlePort with shift := some ⟨0x5A, false, false⟩ } 0x3C =
      some { idlePort with wire := [⟨0x5A, none, false, true, .complete⟩] } := by decide

theorem test_modeFault :
    port0 (step (state { idlePort with spe := true, shift := some ⟨0x5A, false, false⟩, txbuf := some 0x6B, csLevel := false }
      .idle [] [.modeFault 0])) =
      some { idlePort with
        modf := true
        txbuf := some 0x6B
        csLevel := false
        wire := [⟨0x5A, none, false, false, .aborted⟩] } := by decide

theorem test_stop :
    ({ idlePort with spe := true, txbuf := some 0x77, rxbuf := some 0x12, shift := some ⟨0xFF, true, false⟩ } : Port).stop =
      { idlePort with shift := some ⟨0xFF, false, false⟩ } := by decide

/-! ### The state a step fetches from -/

/-- From reset, the placed row is the first instruction that runs (log entry 12). -/
theorem test_withFetchWord_getCs :
    (match step (State.reset.withFetchWord 32 0x00000006) with
    | .next t => some (t.faults, t.callers.map (fun C => C.ctl))
    | _ => none) = some ([⟨.unconfigured, 0, 0x00000006⟩], [.stopped]) := by decide

/-! ### Witnesses: the hypotheses of the statements can be met

The name of a witness is that of its statement; a letter after it is a clause. -/

theorem witness_DecodeOfEncode :
    (Instr.configure 15 0xFF 0xFFFFFFFF 0 0).isCommand = true ∧ (Instr.configure 15 0xFF 0xFFFFFFFF 0 0).WellFormed ∧
    (Instr.exchange 15 [] 0xFFFF).isCommand = true ∧ (Instr.exchange 15 [] 0xFFFF).WellFormed := by decide

theorem witness_DecodeOfEncode_longest : (Instr.transmit 0 (List.replicate 65535 0)).isCommand = true ∧
    (Instr.transmit 0 (List.replicate 65535 0)).WellFormed := ⟨rfl, test_wellFormed_admits_longest⟩

theorem witness_EncodeOfDecode : decodeCommand [0x00030002, 0x000155AA, 0] = .ok (.transmit 0 [0xAA, 0x55, 0x01], [0]) := by
  decide

/-- Whole commands, one for each condition of the statement and one that meets none. -/
theorem witness_IllegalExactlyByTheRule :
    commandLength 0x00000000 0 ≤ 1 ∧ commandLength 0x0000000F 0 ≤ 1 ∧
    commandLength 0x00010001 ([0, 0, 0].headD 0) ≤ [0, 0, (0 : Word)].length + 1 ∧
    commandLength 0x00010102 ([0x7E].headD 0) ≤ [(0x7E : Word)].length + 1 ∧
    commandLength 0x00010002 ([0xFF7E].headD 0) ≤ [(0xFF7E : Word)].length + 1 ∧
    commandLength 0x00040004 ([0x10001, 0x9F].headD 0) ≤ [(0x10001 : Word), 0x9F].length + 1 ∧
    commandLength 0x00000205 0 ≤ 1 ∧ commandLength 0x80000006 0 ≤ 1 ∧ commandLength 0x00000006 0 ≤ 1 := by decide

theorem witness_IllegalCommandFaults :
    let s := state (Port.reset true) .idle [0x00000007] [.caller 0]
    s.refused = false ∧ s.paramsInRange = true ∧ s.nextMove = .caller 0 ∧ s.anyPending = false ∧
    s.callers[0]? = some ⟨.idle, [0x00000007], []⟩ ∧ decodeCommand [0x00000007] = .error .reservedOp ∧
    (⟨.illegalCommand, 0, 0x00000007⟩ : FaultRecord) ∉ s.faults := by decide

theorem witness_QueueIsBoundedFifo : [(1 : Byte), 2, 3].length < 4 ∧ 4 ≤ [(1 : Byte), 2, 3, 4].length := by decide

theorem witness_RegisterInterfacePrimitives :
    { idlePort with rxbuf := some 0x5A }.rxbuf = some (0x5A : Byte) ∧ idlePort.rxbuf = none := by decide

/-- The prescaler at the two ends of its range and just outside them. -/
theorem witness_PrescaleIsLeastDivisor :
    8000000 < 2 ^ 32 ∧ prescale Config.vectorParams 8000000 4000000 = some 1 ∧
    prescale Config.vectorParams 8000000 31250 = some 8 ∧ prescale Config.vectorParams 8000000 8000000 = none ∧
    prescale Config.vectorParams 8000000 31000 = none := by decide

theorem witness_EffectiveRateWithinOneStep :
    8000000 < 2 ^ 32 ∧ prescale Config.vectorParams 8000000 31249 = some 8 ∧ 31250 ∣ 8000000 ∧
    prescale Config.vectorParams 8000000 31250 = some 8 := by decide

/-- No caller is in a transfer on port 0. -/
theorem nobody_busy (P : Port) (p : PortId) : ∀ c C cmd ph l, c ≠ (state P .idle [] []).actor →
    (state P .idle [] []).callers[c]? = some C → C.ctl = .busy cmd ph l → ¬(cmd.isTransfer = true ∧ cmd.port = p) := by
  intro c C cmd ph l _ hC hctl
  have : C ∈ (state P .idle [] []).callers := List.mem_iff_getElem?.mpr ⟨c, hC⟩
  simp only [state, List.mem_cons, List.not_mem_nil, or_false] at this
  rcases this with rfl | rfl <;> cases hctl

/-- A CONFIGURE of a port never configured, and of a configured one with a frame in flight, at the modes 0 and 3. -/
theorem witness_ConfigureInitialisesPort :
    let s := fun P => state P .idle [] []
    let Q := { idlePort with shift := some ⟨1, false, true⟩ }
    ((s (Port.reset true)).actorIdle ∧ (s (Port.reset true)).hasPort 0 (Port.reset true) ∧ (0 : Byte).toNat ≤ 3 ∧
      prescale Config.vectorParams (Config.vectorParams.fbus.getD 0 0).toNat (4000000 : Word).toNat = some 1 ∧
      (Port.reset true).configured = false) ∧
    ((s Q).actorIdle ∧ (s Q).hasPort 0 Q ∧ (3 : Byte).toNat ≤ 3 ∧
      prescale Config.vectorParams (Config.vectorParams.fbus.getD 0 0).toNat (31250 : Word).toNat = some 8 ∧
      Q.configured = true ∧ Q.taken = false ∧
      ∀ c C cmd ph l, c ≠ (s Q).actor → (s Q).callers[c]? = some C → C.ctl = .busy cmd ph l →
        ¬(cmd.isTransfer = true ∧ cmd.port = 0)) :=
  ⟨⟨⟨_, rfl, rfl⟩, rfl, by decide, by decide, rfl⟩,
    ⟨⟨_, rfl, rfl⟩, rfl, by decide, by decide, rfl, rfl, nobody_busy _ 0⟩⟩

/-- Port 2 of two, MODE 4, and a baud rate just above the representable range. -/
theorem witness_ConfigureRejectsArguments :
    let s := state idlePort .idle [] []
    s.actorIdle ∧ s.ports.length ≤ (2 : PortId).toNat ∧ 3 < (4 : Byte).toNat ∧
    prescale s.params (s.params.fbus.getD (0 : PortId).toNat 0).toNat (8000000 : Word).toNat = none :=
  ⟨⟨_, rfl, rfl⟩, by decide, by decide, by decide⟩

/-- Row K19, and a lock that is Taken. -/
theorem witness_ConfigureBusyFaults :
    let P := { idlePort with taken := true }
    let s := { state P (.busy (.transmit 0 [1]) (.tx .tx5) ⟨[], .ok, []⟩) [] [] with actor := 1 }
    s.actorIdle ∧ s.hasPort 0 P ∧ (0 : Byte).toNat ≤ 3 ∧
    prescale s.params (s.params.fbus.getD (0 : PortId).toNat 0).toNat (1000000 : Word).toNat = some 3 ∧
    P.configured = true ∧ P.taken = true ∧
    ∃ c C cmd ph l, c ≠ s.actor ∧ s.callers[c]? = some C ∧ C.ctl = .busy cmd ph l ∧ cmd.isTransfer = true ∧
      cmd.port = 0 :=
  ⟨⟨_, rfl, rfl⟩, rfl, by decide, by decide, rfl, rfl, 0, _, _, _, _, by decide, rfl, rfl, rfl, rfl⟩

/-- A GET_CS of port 2 of two, and one of port 1, which is not configured. -/
theorem witness_PrologueChecksPort :
    let s := state idlePort .idle [] []
    (Instr.getCs 2).isCommand = true ∧ (∀ p m b cs ps, Instr.getCs 2 ≠ .configure p m b cs ps) ∧ s.actorIdle ∧
    s.ports.length ≤ (Instr.getCs 2).port.toNat ∧ s.hasPort (Instr.getCs 1).port (Port.reset false) ∧
    (Port.reset false).configured = false :=
  ⟨rfl, by intros; exact Instr.noConfusion, ⟨_, rfl, rfl⟩, by decide, rfl, rfl⟩

theorem witness_TransfersStart :
    let s := state idlePort .idle [] []
    s.actorIdle ∧ s.hasPort 0 idlePort ∧ idlePort.configured = true := ⟨⟨_, rfl, rfl⟩, rfl, rfl⟩

/-- Every phase of TRANSMIT, with the lock Available and Taken. -/
theorem witness_TransmitPhases : ∀ (t : TxPhase) (l : Locals) (taken : Bool),
    let P := { idlePort with taken := taken }
    let s := state P (.busy (.transmit 0 [1, 2]) (.tx t) l) [] []
    s.hasPort 0 P ∧ s.actorBusy (.transmit 0 [1, 2]) (.tx t) l := fun _ _ _ => ⟨rfl, _, rfl, rfl⟩

/-- The two ends of the clauses of TX2: room for one byte, and none. -/
theorem witness_TransmitPhases_room :
    [(1 : Byte), 2, 3].length < Config.vectorParams.qcap ∧ Config.vectorParams.qcap ≤ [(1 : Byte), 2, 3, 4].length := by
  decide

/-- Every phase of RECEIVE, with the lock Available and Taken. -/
theorem witness_ReceivePhases : ∀ (t : RxPhase) (l : Locals) (taken : Bool),
    let P := { idlePort with taken := taken }
    let s := state P (.busy (.receive 0 0xFFFF 0xFF) (.rx t) l) [] []
    s.hasPort 0 P ∧ s.actorBusy (.receive 0 0xFFFF 0xFF) (.rx t) l := fun _ _ _ => ⟨rfl, _, rfl, rfl⟩

/-- Every phase of EXCHANGE. -/
theorem witness_ExchangePhases : ∀ (ph : Phase) (l : Locals),
    let s := state idlePort (.busy (.exchange 0 [1] 2) ph l) [] []
    s.hasPort 0 idlePort ∧ s.actorBusy (.exchange 0 [1] 2) ph l := fun _ _ => ⟨rfl, _, rfl, rfl⟩

/-- A phase that goes on, one that ends OK and one that ends otherwise, of each inner transfer. -/
theorem witness_ExchangePhases_flows : ∀ l : Locals,
    (txPhase 4 .tx3 l idlePort).2 = .goto (.tx .tx4) l ∧ (txPhase 4 .tx6 l idlePort).2 = .ret ⟨.ok, false, []⟩ ∧
    (txPhase 4 .txf2 l idlePort).2 = .ret ⟨.resourceExhausted, false, []⟩ ∧ Status.resourceExhausted ≠ .ok ∧
    (rxPhase 2 0 .rx3 l idlePort).2 = .goto (.rx .rx4) l ∧ (rxPhase 2 0 .rxa4 l idlePort).2 = .ret ⟨.timeout, false, []⟩ :=
  fun _ => ⟨rfl, rfl, rfl, by decide, rfl, rfl⟩

theorem witness_SetCsDrivesLine :
    let s := state idlePort .idle [] []
    s.actorIdle ∧ s.hasPort 0 idlePort ∧ idlePort.configured = true := ⟨⟨_, rfl, rfl⟩, rfl, rfl⟩

theorem witness_GetCsReturnsLevel :
    let s := state { idlePort with csLevel := false } .idle [] []
    s.actorIdle ∧ s.hasPort 0 { idlePort with csLevel := false } ∧ idlePort.configured = true := ⟨⟨_, rfl, rfl⟩, rfl, rfl⟩

/-- A command that gives a next state, its caller before and after. -/
theorem witness_CommandFrame :
    let s := state idlePort .idle [] []
    let t := (s.setPort 0 { idlePort with csLevel := false }).returnResult 0 ⟨.ok, false, []⟩
    (Instr.setCs 0 false).isCommand = true ∧ exec (.setCs 0 false) s = .next t ∧
    s.callers[s.actor]? = some ⟨.idle, [], []⟩ ∧ t.callers[s.actor]? = some ⟨.idle, [], [⟨.ok, false, []⟩]⟩ :=
  ⟨rfl, rfl, rfl, rfl⟩

/-- TXA2 of an abandoned TRANSMIT. -/
theorem witness_TransmitFrame :
    let P := { idlePort with taken := true, spe := true, txbuf := some 0x3C, shift := some ⟨0xC3, false, true⟩ }
    let i := Instr.transmit 0 [0xC3, 0x3C]
    let s := state P (.busy i (.tx .txa2) ⟨[], .ok, []⟩) [] []
    let t := (s.setPort 0 P.stop).setCtl 0 (.busy i (.tx .txa3) ⟨[], .ok, []⟩)
    exec i s = .next t ∧ s.hasPort 0 P ∧ t.hasPort 0 P.stop := ⟨rfl, rfl, rfl⟩

/-- RX6 of a RECEIVE. -/
theorem witness_ReceiveFrame :
    let P := { idlePort with taken := true, rxq := [0x11] }
    let i := Instr.receive 0 2 0
    let s := state P (.busy i (.rx .rx6) ⟨[], .ok, []⟩) [] []
    let t := (s.setPort 0 P.resetRxq).setCtl 0 (.busy i (.rx .rx7) ⟨[], .ok, [0x11]⟩)
    exec i s = .next t ∧ s.hasPort 0 P ∧ t.hasPort 0 P.resetRxq := ⟨rfl, rfl, rfl⟩

/-- EX1 of an EXCHANGE. -/
theorem witness_ExchangeFrame :
    let i := Instr.exchange 0 [0x9F] 4
    let s := state idlePort (.busy i .ex1 ⟨[0x9F], .ok, []⟩) [] []
    let t := (s.setPort 0 (idlePort.driveCs false)).setCtl 0 (.busy i (.tx .tx1) ⟨[0x9F], .ok, []⟩)
    exec i s = .next t ∧ s.hasPort 0 idlePort ∧ t.hasPort 0 (idlePort.driveCs false) := ⟨rfl, rfl, rfl⟩

theorem witness_IsrTxeMovesByteOrCompletes :
    (state { idlePort with txq := [0x55] } .idle [] []).hasPort 0 { idlePort with txq := [0x55] } ∧
    ({ idlePort with txq := [0x55] } : Port).txq = 0x55 :: [] ∧ (state idlePort .idle [] []).hasPort 0 idlePort ∧
    idlePort.txq = [] := ⟨rfl, rfl, rfl, rfl⟩

/-- The counter at 1, where none remain after, and at 0, where it wraps under WRAP. -/
theorem witness_IsrRxneCountsByte :
    (∀ n : BitVec 16, (state { idlePort with rxbuf := some 0x44, rxcnt := n } .idle [] []).hasPort 0
      { idlePort with rxbuf := some 0x44, rxcnt := n }) ∧
    ({ idlePort with rxbuf := some 0x44 } : Port).rxbuf = some 0x44 ∧ (1 : BitVec 16) - 1 = 0 ∧ (0 : BitVec 16) - 1 ≠ 0 := by
  refine ⟨fun _ => rfl, rfl, by decide, by decide⟩

theorem witness_IsrModfRestartsIsrNoneSkips : (state idlePort .idle [] []).hasPort 0 idlePort := rfl

/-- The test vectors' parameters, and others, with any levels. -/
theorem witness_ResetMeetsInvariants :
    (∀ level, (State.resetWith Config.vectorParams [level, level] 1).paramsInRange = true) ∧
    (∀ level, (State.resetWith ⟨65535, [48000000], 0, 7, true, .saturate⟩ [level] 40).paramsInRange = true) := by
  decide

/-- ISR_TXE with a byte in TXQ, and ISR_RXNE with a byte remaining. -/
theorem witness_HandlerFrame_queues :
    let T := { idlePort with txeie := true, txq := [0x55, 0x01] }
    let R := { idlePort with rxneie := true, rxbuf := some 0x11, rxcnt := 2 }
    let s := fun P => state P .idle [] []
    ((Instr.isrTxe 0).isCommand = false ∧ exec (.isrTxe 0) (s T) = .next ((s T).setPort 0 T.isrTxe) ∧ (s T).hasPort 0 T ∧
      ((s T).setPort 0 T.isrTxe).hasPort 0 T.isrTxe ∧ T.txq = 0x55 :: T.isrTxe.txq) ∧
    ((Instr.isrRxne 0).isCommand = false ∧ (s R).hasPort 0 R ∧
      exec (.isrRxne 0) (s R) = .next ((s R).setPort 0 { R with rxbuf := none, rxcnt := 1, rxq := [0x11] })) :=
  ⟨⟨rfl, rfl, rfl, rfl, rfl⟩, rfl, rfl, rfl⟩

/-- ISR_MODF. -/
theorem witness_HandlerFrame :
    let P := { idlePort with errie := true, modf := true }
    let s := state P .idle [] []
    (Instr.isrModf 0).isCommand = false ∧ exec (.isrModf 0) s = .next (s.setPort 0 P.isrModf) ∧ s.hasPort 0 P ∧
    (s.setPort 0 P.isrModf).hasPort 0 P.isrModf := ⟨rfl, rfl, rfl, rfl⟩

/-- Any port record can be port 0's; the clock is on, and BR is at 0 and at the top of its range. -/
theorem witness_ShiftEngineSteps :
    (∀ P : Port, (state P .idle [] []).ports[0]? = some P) ∧ idlePort.clken = true ∧
    idlePort.br.toNat ≤ Config.vectorParams.pmax - Config.vectorParams.pmin ∧
    (7 : BitVec 3).toNat ≤ Config.vectorParams.pmax - Config.vectorParams.pmin :=
  ⟨fun _ => rfl, by decide, by decide, by decide⟩

/-- Load and Fill. -/
theorem witness_ShiftEngineSteps_starts :
    let P := { idlePort with spe := true, txbuf := some 1 }
    let Q := { idlePort with spe := true, rxneie := true }
    (P.spe = true ∧ P.txbuf = some (1 : Byte) ∧ P.shift = none) ∧
    (Q.spe = true ∧ Q.rxneie = true ∧ Q.txbuf = none ∧ Q.shift = none ∧ Q.rxbuf = none) := by decide

/-- Complete of an uncaptured and of a captured frame. -/
theorem witness_ShiftEngineSteps_completes : ∀ capture : Bool,
    let P := { idlePort with shift := some ⟨1, capture, true⟩ }
    P.shift = some (⟨1, capture, true⟩ : Shift) ∧ P.rxbuf = none := by decide

/-- No step: the bus stopped, nothing to send, and RXBUF full. -/
theorem witness_ShiftEngineSteps_none :
    let P := { idlePort with spe := true, rxneie := true, rxbuf := some 1 }
    (idlePort.shift = none ∧ idlePort.spe = false) ∧
    (idlePort.shift = none ∧ idlePort.txbuf = none ∧ idlePort.rxneie = false) ∧
    (P.shift = none ∧ P.txbuf = none ∧ P.rxbuf ≠ none) := by decide

/-- Row P5. -/
theorem witness_OverrunKeepsOldByte :
    let P := { idlePort with shift := some ⟨0xFF, true, false⟩, rxbuf := some 0x12 }
    let s := state P .idle [] []
    s.ports[0]? = some P ∧ P.clken = true ∧ P.br.toNat ≤ s.params.pmax - s.params.pmin ∧
    P.shift = some ⟨0xFF, true, false⟩ ∧ P.rxbuf = some 0x12 := by decide

theorem witness_BusEvents : (state idlePort .idle [] []).ports[0]? = some idlePort ∧ idlePort.clken = true := by decide

theorem witness_ClockOffNothingMoves :
    (state idlePort .idle [] []).ports[1]? = some (Port.reset false) ∧ (Port.reset false).clken = false := by decide

/-- A move that the host has decided, and none. -/
theorem witness_StepTakesItsMove :
    let s := state idlePort .idle []
    ((s [.periph 0 0x5A]).refused = false ∧ (s [.periph 0 0x5A]).paramsInRange = true ∧
      (s [.periph 0 0x5A]).agenda = .periph 0 0x5A :: []) ∧
    ((s []).refused = false ∧ (s []).paramsInRange = true ∧ (s []).agenda = []) := by decide

theorem witness_StepRunsIssuedCommand :
    let s := state idlePort .idle [0x00000105, 0x00000006] [.caller 0]
    s.refused = false ∧ s.paramsInRange = true ∧ s.nextMove = .caller 0 ∧ s.anyPending = false ∧
    s.callers[0]? = some ⟨.idle, [0x00000105, 0x00000006], []⟩ ∧
    decodeCommand [0x00000105, 0x00000006] = .ok (.setCs 0 true, [0x00000006]) := by decide

theorem witness_StepContinuesCommand :
    let s := state idlePort (.busy (.receive 0 1 0) (.rx .rx3) ⟨[], .ok, []⟩) [] [.caller 0]
    s.refused = false ∧ s.paramsInRange = true ∧ s.nextMove = .caller 0 ∧ s.anyPending = false ∧
    s.callers[0]? = some ⟨.busy (.receive 0 1 0) (.rx .rx3) ⟨[], .ok, []⟩, [], []⟩ := by decide

/-- A cause vector that selects a branch, and one that selects none. -/
theorem witness_StepRunsSelectedBranch :
    let s := fun P => state P .idle [] [.isr (0 : PortId).toNat]
    let P := { idlePort with txeie := true }
    (s P).refused = false ∧ (s P).paramsInRange = true ∧ (s P).nextMove = .isr (0 : PortId).toNat ∧ (s P).hasPort 0 P ∧
    decodeCause 0 P.cv = some (.isrTxe 0) ∧ (s idlePort).hasPort 0 idlePort ∧ decodeCause 0 idlePort.cv = none := by decide

theorem witness_PendingCauseHoldsCallers :
    let s := state { idlePort with txeie := true } .idle [0x00000006] [.caller 0]
    s.refused = false ∧ s.paramsInRange = true ∧ s.nextMove = .caller 0 ∧ ∃ P ∈ s.ports, P.cv ≠ 0 :=
  ⟨rfl, by decide, rfl, _, List.mem_cons_self, by decide⟩

theorem witness_OtherErrorStorm :
    let P := { idlePort with errie := true, errf := true }
    let s := state P .idle [] [.isr (0 : PortId).toNat]
    s.refused = false ∧ s.paramsInRange = true ∧ s.nextMove = .isr (0 : PortId).toNat ∧ s.hasPort 0 P ∧
    P.cv = 0b1000 := by decide

/-- A refused state, a command from a due firing, a second command, and a model with no caller, with QCAP just above
its range and with PMAX just above its range. -/
theorem witness_MisuseIsRefused :
    let s := state { idlePort with txeie := true } (.busy (.receive 0 1 0) (.rx .rx3) ⟨[], .ok, []⟩) []
    ({ s [] with refused := true } : State).refused = true ∧
    ((s [.callFromInterrupt 0]).refused = false ∧ (s [.callFromInterrupt 0]).paramsInRange = true ∧
      (s [.callFromInterrupt 0]).nextMove = .callFromInterrupt 0 ∧
      (s [.callFromInterrupt 0]).ports[0]? = some { idlePort with txeie := true } ∧
      ({ idlePort with txeie := true } : Port).cv ≠ 0) ∧
    ((s [.callWhileBusy 0]).refused = false ∧ (s [.callWhileBusy 0]).paramsInRange = true ∧
      (s [.callWhileBusy 0]).nextMove = .callWhileBusy 0 ∧
      (s [.callWhileBusy 0]).callers[0]? =
        some ⟨.busy (.receive 0 1 0) (.rx .rx3) ⟨[], .ok, []⟩, [], []⟩) ∧
    (State.resetWith Config.vectorParams [true, true] 0).callers.length < 1 ∧
    65535 < ({ Config.vectorParams with qcap := 65536 } : Params).qcap ∧
    ({ Config.vectorParams with pmax := 9 } : Params).pmin + 7 < ({ Config.vectorParams with pmax := 9 } : Params).pmax := by
  decide

/-- One state for each stop: an empty data register, BR above the range with a frame in flight, a phase of another
command, a phase of port 5 of two, a branch of port 5, a caller that is not there, and a Stopped caller. -/
theorem witness_StopsByName :
    let P := { idlePort with br := 7, shift := some ⟨1, false, true⟩ }
    let s := { state P .idle [] [] with params := { Config.vectorParams with pmax := 7 } }
    let b := fun i ph => state idlePort (.busy i ph ⟨[], .ok, []⟩) [] []
    ((state idlePort .idle [] []).hasPort 0 idlePort ∧ idlePort.rxbuf = none) ∧
    (s.ports[0]? = some P ∧ s.params.pmax - s.params.pmin < P.br.toNat ∧ P.clken = true ∧ P.shift ≠ none) ∧
    ((b (.transmit 0 []) .ex5).actorBusy (.transmit 0 []) .ex5 ⟨[], .ok, []⟩ ∧
      Phase.fits .ex5 (.transmit 0 []) = false) ∧
    ((b (.receive 5 1 0) (.rx .rx1)).actorBusy (.receive 5 1 0) (.rx .rx1) ⟨[], .ok, []⟩ ∧
      Phase.fits (.rx .rx1) (.receive 5 1 0) = true ∧ s.ports.length ≤ (Instr.receive 5 1 0).port.toNat) ∧
    ((Instr.isrTxe 5).isCommand = false ∧ s.ports.length ≤ (Instr.isrTxe 5).port.toNat) ∧
    ({ s with actor := 2 } : State).callers[2]? = none ∧
    (state idlePort .stopped [] []).callers[0]? = some ⟨.stopped, [], []⟩ :=
  ⟨⟨rfl, rfl⟩, ⟨rfl, by decide, rfl, by decide⟩, ⟨⟨_, rfl, rfl⟩, rfl⟩, ⟨⟨_, rfl, rfl⟩, rfl, by decide⟩, by decide, rfl, rfl⟩

/-- A second command of a Busy caller. -/
theorem witness_MisuseIsRefused_second :
    (Instr.getCs 0).isCommand = true ∧ Instr.receive 0 1 0 ≠ .getCs 0 ∧
    (state idlePort (.busy (.receive 0 1 0) (.rx .rx3) ⟨[], .ok, []⟩) [] []).actorBusy (.receive 0 1 0) (.rx .rx3)
      ⟨[], .ok, []⟩ := ⟨rfl, by decide, _, rfl, rfl⟩

/-! ### Witnesses of the statements about the whole machine -/

/-- The reset state with a next move takes a step, meets the invariants and is not refused. -/
theorem idlePort_sound : idlePort.Sound Config.vectorParams :=
  ⟨by decide, by decide, by decide, by decide, by decide⟩

theorem reset_sound (level : Bool) : (Port.reset level).Sound Config.vectorParams :=
  ⟨by cases level <;> decide, by cases level <;> decide, by cases level <;> decide, by cases level <;> decide,
    fun _ => rfl⟩

/-- Caller 0 in a phase of a transfer on port 0, or Idle, on a sound port: the invariant of every step. -/
theorem state_inv {P : Port} {ctl : CallerState} {ws : List Word} {moves : List Move}
    (hP : P.Sound Config.vectorParams) (hs : ctl ≠ .stopped)
    (hb : ∀ cmd ph l, ctl = .busy cmd ph l → BusySound (state P ctl ws moves) cmd ph l) :
    (state P ctl ws moves).Inv := by
  refine ⟨rfl, ?_, ?_, ?_, List.nodup_nil, ?_, ?_⟩
  · intro Q hQ
    simp only [state, List.mem_cons, List.not_mem_nil, or_false] at hQ
    rcases hQ with rfl | rfl
    · exact hP
    · exact reset_sound false
  · intro C hC cmd ph l hctl
    simp only [state, List.mem_cons, List.not_mem_nil, or_false] at hC
    rcases hC with rfl | rfl
    · exact hb cmd ph l hctl
    · cases hctl
  · intro C hC r hr
    simp only [state, List.mem_cons, List.not_mem_nil, or_false] at hC
    rcases hC with rfl | rfl <;> cases hr
  · intro r hr
    cases hr
  · intro c C hC hctl
    have : C ∈ (state P ctl ws moves).callers := List.mem_iff_getElem?.mpr ⟨c, hC⟩
    simp only [state, List.mem_cons, List.not_mem_nil, or_false] at this
    rcases this with rfl | rfl
    · exact absurd hctl hs
    · cases hctl

/-- Nobody but caller 0 has a command to issue. -/
theorem state_soleUser (P : Port) (ctl : CallerState) (ws : List Word) (moves : List Move) :
    (state P ctl ws moves).soleUser 0 0 := by
  rintro c ⟨w, ⟨-, -, -, C, hC, -, hw⟩, -⟩
  match c with
  | 0 => rfl
  | 1 =>
    cases hC
    cases hw
  | c + 2 => cases hC

/-- Nobody but caller 0 runs a command on port 0. -/
theorem state_othersAway (P : Port) (ctl : CallerState) (ws : List Word) (moves : List Move) :
    ∀ c, c ≠ 0 → (state P ctl ws moves).phaseOn 0 c = none := by
  intro c hc
  match c with
  | 0 => exact absurd rfl hc
  | 1 => rfl
  | c + 2 => rfl

/-- An Idle caller about to drive the line. -/
def csState : State := state idlePort .idle [0x00000105] [.caller 0]

/-- What its step gives. -/
def csAfter : State :=
  { state idlePort .idle [] [] with callers := [⟨.idle, [], [⟨.ok, false, []⟩]⟩, ⟨.idle, [], []⟩] }

theorem csState_step : step csState = .next csAfter := by rfl

theorem csState_inv : csState.Inv := state_inv idlePort_sound (by decide) (by intros; contradiction)

theorem witness_StepKeepsInvariant : csState.Inv ∧ step csState = .next csAfter := ⟨csState_inv, csState_step⟩

theorem witness_InvariantStatesStep : csState.Inv ∧ csState.refused = false := ⟨csState_inv, rfl⟩

/-- The last phase of a TRANSMIT whose byte has been written to DR. -/
def txPort : Port := { idlePort with taken := true, drlog := [0xC3] }

theorem txPort_sound : txPort.Sound Config.vectorParams := ⟨by decide, by decide, by decide, by decide, by decide⟩

def txState : State := state txPort (.busy (.transmit 0 [0xC3]) (.tx .tx6) ⟨[], .ok, []⟩) [] [.caller 0]

def txAfter : State :=
  { state { txPort with taken := false } .idle [] [] with
    callers := [⟨.idle, [], [⟨.ok, false, []⟩]⟩, ⟨.idle, [], []⟩] }

theorem txState_step : step txState = .next txAfter := by rfl

theorem txState_inv : txState.Inv := by
  refine state_inv txPort_sound (by decide) ?_
  intro cmd ph l h
  cases h
  exact ⟨rfl, rfl, ⟨txPort, rfl, rfl⟩, rfl, List.nil_suffix, fun _ => rfl, by decide, fun h => absurd rfl h⟩

theorem txState_sole : txState.SoleInv 0 0 := by
  refine ⟨state_othersAway _ _ _ _, ?_⟩
  intro P hP
  cases hP
  show txPort.atPhase (.tx .tx6)
  exact ⟨rfl, ⟨rfl, rfl, rfl⟩, rfl, rfl, rfl, rfl, by intro f hf; cases hf⟩

theorem witness_SoleUserInvariantKept :
    txState.Inv ∧ txState.SoleInv 0 0 ∧ txState.soleUser 0 0 ∧ step txState = .next txAfter :=
  ⟨txState_inv, txState_sole, state_soleUser _ _ _ _, txState_step⟩

theorem witness_TransmitWritesPayloadInOrder :
    txState.Inv ∧ txState.SoleInv (0 : PortId).toNat 0 ∧ txState.soleUser (0 : PortId).toNat 0 ∧
    txState.callers[0]? = some ⟨.busy (.transmit 0 [0xC3]) (.tx .tx6) ⟨[], .ok, []⟩, [], []⟩ ∧
    TxPhase.tx6 ≠ .txf1 ∧ TxPhase.tx6 ≠ .txa3 ∧ step txState = .next txAfter ∧ txState.hasPort 0 txPort ∧
    txAfter.hasPort 0 { txPort with taken := false } :=
  ⟨txState_inv, txState_sole, state_soleUser _ _ _ _, rfl, by decide, by decide, txState_step, rfl, rfl⟩

/-- The same phase within an EXCHANGE, which goes on to its RECEIVE. -/
def exState : State := state txPort (.busy (.exchange 0 [0xC3] 2) (.tx .tx6) ⟨[], .ok, []⟩) [] [.caller 0]

def exAfter : State :=
  state { txPort with taken := false } (.busy (.exchange 0 [0xC3] 2) (.rx .rx1) ⟨[], .ok, []⟩) [] []

theorem exState_inv : exState.Inv := by
  refine state_inv txPort_sound (by decide) ?_
  intro cmd ph l h
  cases h
  exact ⟨rfl, rfl, ⟨txPort, rfl, rfl⟩, rfl, List.nil_suffix, fun _ => rfl, by decide, fun h => absurd rfl h⟩

theorem exState_sole : exState.SoleInv 0 0 := by
  refine ⟨state_othersAway _ _ _ _, ?_⟩
  intro P hP
  cases hP
  show txPort.atPhase (.tx .tx6)
  exact ⟨rfl, ⟨rfl, rfl, rfl⟩, rfl, rfl, rfl, rfl, by intro f hf; cases hf⟩

theorem witness_TransmitWritesPayloadInOrder_exchange :
    exState.Inv ∧ exState.SoleInv (0 : PortId).toNat 0 ∧ exState.soleUser (0 : PortId).toNat 0 ∧
    exState.callers[0]? = some ⟨.busy (.exchange 0 [0xC3] 2) (.tx .tx6) ⟨[], .ok, []⟩, [], []⟩ ∧
    (Instr.exchange 0 [0xC3] 2).port = 0 ∧ step exState = .next exAfter ∧ exState.hasPort 0 txPort ∧
    exAfter.hasPort 0 { txPort with taken := false } :=
  ⟨exState_inv, exState_sole, state_soleUser _ _ _ _, rfl, rfl, rfl, rfl, rfl⟩

/-- A RECEIVE of length 1 in its completion wait, its byte not yet read. -/
def rxPort : Port :=
  { idlePort with taken := true, rxneie := true, errie := true, spe := true, rxcnt := 1, rxbuf := some 0x5A }

theorem rxPort_sound : rxPort.Sound Config.vectorParams := ⟨by decide, by decide, by decide, by decide, by decide⟩

def rxState : State := state rxPort (.busy (.receive 0 1 0) (.rx .rx5) ⟨[], .ok, []⟩) [] [.isr 0]

def rxAfter : State :=
  { state idlePort (.busy (.receive 0 1 0) (.rx .rx5) ⟨[], .ok, []⟩) [] [] with actor := 0 }

theorem rxState_step : step rxState = .next rxAfter := by rfl

theorem rxState_inv : rxState.Inv := by
  refine state_inv rxPort_sound (by decide) ?_
  intro cmd ph l h
  cases h
  exact ⟨rfl, rfl, ⟨rxPort, rfl, rfl⟩, rfl, rfl, fun h => (by cases h), by decide, fun h => absurd rfl h⟩

theorem rxState_sole : rxState.SoleInv 0 0 := by
  refine ⟨state_othersAway _ _ _ _, ?_⟩
  intro P hP
  cases hP
  show rxPort.atPhase (.rx .rx5)
  exact .inl ⟨rfl, rfl, rfl, rfl, rfl, rfl, by intro f hf; cases hf⟩

theorem rxState_count : rxState.CountInv 0 0 := by
  intro C P i phase l n hC hctl hk hi hn hP
  cases hC
  cases hctl
  cases hi
  cases hP
  exact ⟨fun _ => by decide, fun h => by cases h⟩

theorem witness_ReceiveDeliversItsCount :
    rxState.Inv ∧ rxState.SoleInv 0 0 ∧ rxState.soleUser 0 0 ∧ rxState.CountInv 0 0 ∧ step rxState = .next rxAfter :=
  ⟨rxState_inv, rxState_sole, state_soleUser _ _ _ _, rxState_count, rxState_step⟩

/-- EX5 of an EXCHANGE of receive length 2, with the one byte that its inner RECEIVE delivers. -/
def ex5State : State := state idlePort (.busy (.exchange 0 [0xC3] 2) .ex5 ⟨[], .ok, [0x5A]⟩) [] [.caller 0]

def ex5After : State :=
  { state idlePort .idle [] [] with callers := [⟨.idle, [], [⟨.ok, false, [0x5A]⟩]⟩, ⟨.idle, [], []⟩] }

theorem ex5State_inv : ex5State.Inv := by
  refine state_inv idlePort_sound (by decide) ?_
  intro cmd ph l h
  cases h
  exact ⟨rfl, rfl, ⟨idlePort, rfl, rfl⟩, rfl, List.nil_suffix, fun h => (by cases h), by decide,
    fun _ => .inr ⟨rfl, rfl⟩⟩

theorem idlePort_quiescent : idlePort.quiescent :=
  ⟨rfl, ⟨rfl, rfl, rfl⟩, rfl, rfl, rfl, rfl, by intro f hf; cases hf⟩

theorem ex5State_sole : ex5State.SoleInv 0 0 := by
  refine ⟨state_othersAway _ _ _ _, ?_⟩
  intro P hP
  cases hP
  exact idlePort_quiescent

theorem ex5State_count : ex5State.CountInv 0 0 := by
  intro C P i phase l n hC hctl hk hi hn hP
  cases hC
  cases hctl
  cases hi
  cases hP
  exact fun _ => by decide

theorem witness_ReceiveDeliversItsCount_result :
    (ex5State.Inv ∧ ex5State.SoleInv 0 0 ∧ ex5State.soleUser 0 0 ∧ ex5State.CountInv 0 0 ∧
      step ex5State = .next ex5After) ∧
    ex5State.callers[0]? = some ⟨.busy (.exchange 0 [0xC3] 2) .ex5 ⟨[], .ok, [0x5A]⟩, [], []⟩ ∧
    receiveLength (.exchange 0 [0xC3] 2) = some 2 ∧ (2 : BitVec 16) ≠ 0 ∧
    ex5After.callers[0]? = some ⟨.idle, [], [] ++ [⟨.ok, false, [0x5A]⟩]⟩ :=
  ⟨⟨ex5State_inv, ex5State_sole, state_soleUser _ _ _ _, ex5State_count, rfl⟩, rfl, rfl, by decide, rfl⟩

theorem witness_OnlyCallersChangeQueuedBytes :
    (∀ c, rxState.nextMove ≠ .caller c) ∧ step rxState = .next rxAfter ∧ rxState.ports[0]? = some rxPort ∧
    rxAfter.ports[0]? = some idlePort := ⟨fun _ h => (by cases h), rxState_step, rfl, rfl⟩

theorem witness_StepTouchesOnePort :
    rxState.paramsInRange = true ∧ step rxState = .next rxAfter ∧ rxState.namedPort ≠ some 1 :=
  ⟨by decide, rxState_step, by decide⟩

/-- Two states that agree on the parameters and port 0, for the four moves. -/
theorem witness_PortStepReadsOwnPort :
    let s' := { rxState with callers := [], faults := [⟨.unconfigured, 1, 0⟩] }
    rxState.params = s'.params ∧ rxState.ports[0]? = s'.ports[0]? ∧ (0 : Nat) < 16 ∧
    (∃ t, runMove (.isr 0) rxState = .next t) ∧ (∃ t, runMove (.isr 0) s' = .next t) ∧
    (∃ t, runMove (.periph 0 1) rxState = .next t) ∧ (∃ t, runMove (.periph 0 1) s' = .next t) ∧
    (∃ t, runMove (.modeFault 0) rxState = .next t) ∧ (∃ t, runMove (.modeFault 0) s' = .next t) ∧
    (∃ t, runMove (.busError 0) rxState = .next t) ∧ (∃ t, runMove (.busError 0) s' = .next t) :=
  ⟨rfl, rfl, by decide, ⟨_, rfl⟩, ⟨_, rfl⟩, ⟨_, rfl⟩, ⟨_, rfl⟩, ⟨_, rfl⟩, ⟨_, rfl⟩, ⟨_, rfl⟩, ⟨_, rfl⟩⟩

/-- A state with a Stopped caller and its record. -/
theorem witness_FaultsAreSticky :
    let s := { csState with
      faults := [⟨.unconfigured, 1, 6⟩], callers := [⟨.idle, [0x00000105], []⟩, ⟨.stopped, [], []⟩] }
    (match step s with
    | .next _ => true
    | _ => false) = true ∧ s.callers[1]? = some ⟨.stopped, [], []⟩ := by decide

theorem witness_ConfigurationIsNeverUndone :
    step csState = .next csAfter ∧ csState.ports[0]? = some idlePort ∧ csAfter.ports[0]? = some idlePort ∧
    idlePort.configured = true ∧ idlePort.clken = true := ⟨csState_step, rfl, rfl, rfl, rfl⟩

theorem witness_TracesOnlyGrow :
    step csState = .next csAfter ∧ csState.ports[0]? = some idlePort ∧ csAfter.ports[0]? = some idlePort :=
  ⟨csState_step, rfl, rfl⟩

/-- A state in which each appender of a trace moves: PERIPH, a mode fault, a CONFIGURE of the port, and a firing. -/
theorem witness_TracesOnlyGrow_appends :
    let F := { idlePort with shift := some ⟨0x5A, true, false⟩, csLevel := false }
    let D := { idlePort with txeie := true, txq := [0x55] }
    let traces := fun s => (port0 (step s)).map fun P => (P.wire, P.drlog)
    traces (state F .idle [] [.periph 0 0x3C]) = some ([⟨0x5A, some 0x3C, false, false, .complete⟩], []) ∧
    traces (state F .idle [] [.modeFault 0]) = some ([⟨0x5A, none, false, false, .aborted⟩], []) ∧
    traces (state F .idle [0x00000001, 0x000F4240, 0, 0] [.caller 0]) =
      some ([⟨0x5A, none, false, false, .aborted⟩], []) ∧
    traces (state D .idle [] [.isr 0]) = some ([], [0x55]) := by decide

/-- One command that returns, one that faults and one that goes on. -/
theorem witness_OneOutcomePerCommand :
    let s := state idlePort .idle [] []
    let out := fun i => match exec i s with
      | .next t => some (t.refused, t.callers[s.actor]?.map fun C => (C.ctl, C.results.length))
      | _ => none
    (Instr.getCs 0).isCommand = true ∧ out (.getCs 0) = some (false, some (.idle, 1)) ∧
    (Instr.getCs 1).isCommand = true ∧ out (.getCs 1) = some (false, some (.stopped, 0)) ∧
    (Instr.receive 0 1 0).isCommand = true ∧
    out (.receive 0 1 0) = some (false, some (.busy (.receive 0 1 0) (.rx .rx1) ⟨[], .ok, []⟩, 0)) := by decide

/-! ### Witnesses of the statements about runs -/

/-- A run of one step. -/
def oneStep (s t : State) (k : Nat) : State := if k = 0 then s else t

theorem oneStep_isRunTo {s t : State} (h : step s = .next t) : isRunTo (oneStep s t) 1 := by
  intro k hk
  obtain rfl : k = 0 := by omega
  exact h

/-- Caller 0 drives port 0's line in a run of one step. -/
theorem witness_SingleCallerPortIsIdle :
    isRunTo (oneStep csState csAfter) 1 ∧ csState.Inv ∧ (∀ c, csState.phaseOn 0 c = none) ∧
    (∀ P, csState.ports[0]? = some P → P.quiescent) ∧ singleCaller (oneStep csState csAfter) 1 0 ∧
    noBusFaults (oneStep csState csAfter) 1 0 ∧
    (∀ P, csState.ports[0]? = some P → P.modf = false ∧ P.errf = false) := by
  refine ⟨oneStep_isRunTo csState_step, csState_inv, ?_, ?_, ⟨0, ?_⟩, ?_, ?_⟩
  · intro c
    match c with
    | 0 => rfl
    | c + 1 => exact state_othersAway _ _ _ _ (c + 1) (by omega)
  · intro P hP
    cases hP
    exact idlePort_quiescent
  · intro k hk
    obtain rfl : k = 0 := by omega
    exact state_soleUser _ _ _ _
  · intro k hk
    obtain rfl : k = 0 := by omega
    rintro ⟨-, h | h, -⟩ <;> cases h
  · intro P hP
    cases hP
    exact ⟨rfl, rfl⟩

/-- Caller 0 configures port 0, never configured, in a run of one step. -/
def cfgState : State := state (Port.reset true) .idle [0x00000301, 0x000F4240, 7, 9] [.caller 0]

def cfgAfter : State :=
  { state { idlePort with mode := 3, br := 2, cspin := 7, pinset := 9 } .idle [] [] with
    callers := [⟨.idle, [], [⟨.ok, false, []⟩]⟩, ⟨.idle, [], []⟩] }

theorem witness_ConfiguredRunIsClean :
    isRunTo (oneStep cfgState cfgAfter) 1 ∧ cfgState.Inv ∧ configuresFirst (oneStep cfgState cfgAfter) 0 0 ∧
    configured (oneStep cfgState cfgAfter) 0 := by
  have h : configuresFirst (oneStep cfgState cfgAfter) 0 0 :=
    ⟨fun j hj => absurd hj (by omega), 0, 0x00000301, ⟨.idle, [0x00000301, 0x000F4240, 7, 9], []⟩,
      ⟨.idle, [], [⟨.ok, false, []⟩]⟩, 3, 1000000, 7, 9, [],
      ⟨⟨rfl, rfl⟩, rfl, rfl, _, rfl, rfl, rfl⟩, rfl, rfl, rfl, rfl⟩
  exact ⟨oneStep_isRunTo rfl, state_inv (reset_sound true) (by decide) (by intros; contradiction), h, 0, h⟩

/-- A command that is illegal is issued all the same, on the port its word 0 names: PORT 3, OP 0x7. -/
theorem test_issuesOn_illegal : (state idlePort .idle [0x00000037] [.caller 0]).issuesOn 0 3 :=
  ⟨0x00000037, ⟨⟨rfl, rfl⟩, rfl, rfl, _, rfl, rfl, rfl⟩, rfl⟩

/-- A command that only waits is not issued: the move is ISR 0's. -/
theorem test_issuesOn_waiting : ¬(state idlePort .idle [0x00000006] [.isr 0]).issuesOn 0 0 := by
  rintro ⟨w, ⟨-, h, -⟩, -⟩
  cases h

end Sys2Proof.Tests
end

section
/-! The commands' frame, and how a step runs its move and the acting caller's command (`00_scope.md`). -/

namespace Sys2Proof.Machine

/-! ### What a command leaves of the state (`00_scope.md` rule R25, `60_exceptions.md` rules R345 and R350) -/

/-- From `s` to `t` nothing has changed but port `p`, the control state and the appended results of caller `c`, and
FAULTS and REFUSED, which have lost nothing. -/
structure State.ChangesOnly (p c : Nat) (s t : State) : Prop where
  params : t.params = s.params
  agenda : t.agenda = s.agenda
  draws : t.draws = s.draws
  actor : t.actor = s.actor
  portCount : t.ports.length = s.ports.length
  callerCount : t.callers.length = s.callers.length
  otherPorts : ∀ q, q ≠ p → t.ports[q]? = s.ports[q]?
  otherCallers : ∀ c', c' ≠ c → t.callers[c']? = s.callers[c']?
  ownCaller : ∀ C, s.callers[c]? = some C →
    ∃ C', t.callers[c]? = some C' ∧ C'.stream = C.stream ∧ C.results <+: C'.results
  faultsKept : s.faults ⊆ t.faults
  refusedKept : s.refused = true → t.refused = true

theorem State.ChangesOnly.trans {p c : Nat} {s t u : State} (h : s.ChangesOnly p c t) (k : t.ChangesOnly p c u) :
    s.ChangesOnly p c u where
  params := k.params.trans h.params
  agenda := k.agenda.trans h.agenda
  draws := k.draws.trans h.draws
  actor := k.actor.trans h.actor
  portCount := k.portCount.trans h.portCount
  callerCount := k.callerCount.trans h.callerCount
  otherPorts q hq := (k.otherPorts q hq).trans (h.otherPorts q hq)
  otherCallers c' hc := (k.otherCallers c' hc).trans (h.otherCallers c' hc)
  ownCaller C hC := by
    obtain ⟨D, hD, hstream, hresults⟩ := h.ownCaller C hC
    obtain ⟨E, hE, hstream', hresults'⟩ := k.ownCaller D hD
    exact ⟨E, hE, hstream'.trans hstream, hresults.trans hresults'⟩
  faultsKept := List.Subset.trans h.faultsKept k.faultsKept
  refusedKept := k.refusedKept ∘ h.refusedKept

theorem State.setPort_changesOnly (s : State) (p c : Nat) (P : Port) : s.ChangesOnly p c (s.setPort p P) where
  params := rfl
  agenda := rfl
  draws := rfl
  actor := rfl
  portCount := by simp
  callerCount := rfl
  otherPorts q hq := s.ports_setPort_ne P hq
  otherCallers _ _ := rfl
  ownCaller C hC := ⟨C, hC, rfl, List.prefix_rfl⟩
  faultsKept := List.Subset.refl _
  refusedKept := id

/-- A change of one caller's record that keeps its words and its results, with FAULTS growing: what `returnResult`,
`raiseFault` and `setCtl` have in common. -/
theorem State.modifyCaller_changesOnly (s : State) (p c : Nat) {f : Caller → Caller} {faults : List FaultRecord}
    (hf : ∀ C, (f C).stream = C.stream ∧ C.results <+: (f C).results) (hfaults : s.faults ⊆ faults) :
    s.ChangesOnly p c { s with faults := faults, callers := s.callers.modify c f } where
  params := rfl
  agenda := rfl
  draws := rfl
  actor := rfl
  portCount := rfl
  callerCount := by simp
  otherPorts _ _ := rfl
  otherCallers c' hc := callers_modify_ne s.callers f hc
  ownCaller C hC := ⟨f C, callers_modify_self f hC, hf C⟩
  faultsKept := hfaults
  refusedKept := id

theorem State.returnResult_changesOnly (s : State) (p c : Nat) (r : CommandResult) :
    s.ChangesOnly p c (s.returnResult c r) :=
  s.modifyCaller_changesOnly p c (fun _ => ⟨rfl, List.prefix_append _ _⟩) (List.Subset.refl _)

theorem State.setCtl_changesOnly (s : State) (p c : Nat) (ctl : CallerState) :
    s.ChangesOnly p c (s.setCtl c ctl) :=
  s.modifyCaller_changesOnly p c (fun _ => ⟨rfl, List.prefix_rfl⟩) (List.Subset.refl _)

theorem subset_insertFault (faults : List FaultRecord) (r : FaultRecord) : faults ⊆ insertFault faults r := by
  unfold insertFault
  split
  · exact List.Subset.refl _
  · exact List.subset_append_left _ _

theorem State.raiseFault_changesOnly (s : State) (p c : Nat) (kind : FaultKind) (w : Word) :
    s.ChangesOnly p c (s.raiseFault kind c w) :=
  s.modifyCaller_changesOnly p c (fun _ => ⟨rfl, List.prefix_rfl⟩) (subset_insertFault _ _)

theorem State.refuse_changesOnly (s : State) (p c : Nat) : s.ChangesOnly p c s.refuse where
  params := rfl
  agenda := rfl
  draws := rfl
  actor := rfl
  portCount := rfl
  callerCount := rfl
  otherPorts _ _ := rfl
  otherCallers _ _ := rfl
  ownCaller C hC := ⟨C, hC, rfl, List.prefix_rfl⟩
  faultsKept := List.Subset.refl _
  refusedKept _ := rfl

theorem State.follow_changesOnly (s : State) (p c : Nat) (cmd : Instr) (flow : Flow) :
    s.ChangesOnly p c (s.follow c cmd flow) := by
  cases flow with
  | goto phase l => exact s.setCtl_changesOnly p c _
  | ret r => exact s.returnResult_changesOnly p c r

/-- A command changes only the port it names and what is its own caller's. -/
theorem exec_command_changesOnly {s t : State} {i : Instr} (hi : i.isCommand = true) (h : exec i s = .next t) :
    s.ChangesOnly i.port.toNat s.actor t := by
  obtain ⟨C, -, he⟩ := exec_command hi h
  cases he with
  | rejects => exact s.returnResult_changesOnly _ _ _
  | faults => exact s.raiseFault_changesOnly _ _ _ _
  | completes => exact (s.setPort_changesOnly _ _ _).trans (State.returnResult_changesOnly _ _ _ _)
  | starts => exact s.setCtl_changesOnly _ _ _
  | phase => exact (s.setPort_changesOnly _ _ _).trans (State.follow_changesOnly _ _ _ _ _)
  | refuses => exact s.refuse_changesOnly _ _

/-- Settles O27: every effect a command can have is made of updates that keep the frame. -/
theorem commandFrame : Obligations.CommandFrame := by
  intro s t i hi h
  have k := exec_command_changesOnly hi h
  refine ⟨k.params, k.agenda, k.draws, k.actor, k.portCount, k.callerCount, k.otherPorts, k.otherCallers, ?_,
    fun _ hr => k.faultsKept hr, k.refusedKept⟩
  intro C C' hC hC'
  obtain ⟨D, hD, hstream, hresults⟩ := k.ownCaller C hC
  obtain rfl : D = C' := Option.some.inj (hD.symm.trans hC')
  exact ⟨hstream, hresults⟩

/-! ### The next move (`00_scope.md` rules R19 to R22, log entry 2) -/

theorem State.nextMove_of_agenda_cons {s : State} {m : Move} {moves : List Move} (h : s.agenda = m :: moves) :
    s.nextMove = m := by
  simp [State.nextMove, h]

theorem State.takeMove_of_agenda_cons {s : State} {m : Move} {moves : List Move} (h : s.agenda = m :: moves) :
    s.takeMove = { s with agenda := moves } := by
  simp [State.takeMove, h]

theorem State.nextMove_of_agenda_nil {s : State} (h : s.agenda = []) : s.nextMove = Config.freeMove s.draws := by
  simp [State.nextMove, h]

theorem State.takeMove_of_agenda_nil {s : State} (h : s.agenda = []) :
    s.takeMove = { s with draws := s.draws + 1 } := by
  simp [State.takeMove, h]

@[simp] theorem State.takeMove_callers (s : State) : s.takeMove.callers = s.callers := by
  obtain ⟨_, _, e⟩ := s.takeMove_eq
  rw [e]

@[simp] theorem State.takeMove_ports (s : State) : s.takeMove.ports = s.ports := by
  obtain ⟨_, _, e⟩ := s.takeMove_eq
  rw [e]

/-- Whether a cause is pending does not depend on the host's inputs. -/
@[simp] theorem State.takeMove_anyPending (s : State) : s.takeMove.anyPending = s.anyPending := by
  simp [State.anyPending]

/-- Settles O39: with the agenda a list or empty, `nextMove` and `takeMove` are the move and the state it runs at. -/
theorem stepTakesItsMove : Obligations.StepTakesItsMove := by
  intro s hr hp
  have hs : step s = runMove s.nextMove s.takeMove := step_of_takesMove ⟨hr, hp⟩
  constructor
  · intro m moves h
    rw [hs, s.nextMove_of_agenda_cons h, s.takeMove_of_agenda_cons h]
    exact ⟨rfl, rfl⟩
  · intro h
    rw [hs, s.nextMove_of_agenda_nil h, s.takeMove_of_agenda_nil h]
    exact ⟨rfl, rfl⟩

/-! ### The move of a caller that no pending cause holds back (`60_exceptions.md` rule R360) -/

/-- The step whose next move is caller `c`'s is that caller's move. -/
theorem step_eq_callerMove {s : State} {c : Nat} (hs : s.takesMove) (hm : s.nextMove = .caller c) :
    step s = callerMove c s.takeMove := by
  rw [step_of_takesMove hs, hm]
  rfl

/-- No words decode to no command. -/
theorem ne_nil_of_decodeCommand {ws rest : List Word} {i : Instr} (h : decodeCommand ws = .ok (i, rest)) :
    ws ≠ [] := by
  rintro rfl
  cases h

/-- An Idle caller's move runs the command that its words decode to. -/
theorem callerMove_idle {s : State} {c : Nat} {C : Caller} {i : Instr} {rest : List Word}
    (hp : s.anyPending = false) (hC : s.callers[c]? = some C) (hc : C.ctl = .idle)
    (hd : decodeCommand C.stream = .ok (i, rest)) :
    callerMove c s = exec i ((s.setActor c).setStream c rest) := by
  have he : s.callerEnabled c = true := by
    simp [State.callerEnabled, hp, hC, hc, ne_nil_of_decodeCommand hd]
  simp [callerMove, he, hC, hc, hd]

/-- A Busy caller's move runs its command again. -/
theorem callerMove_busy {s : State} {c : Nat} {C : Caller} {i : Instr} {phase : Phase} {l : Locals}
    (hp : s.anyPending = false) (hC : s.callers[c]? = some C) (hc : C.ctl = .busy i phase l) :
    callerMove c s = exec i (s.setActor c) := by
  have he : s.callerEnabled c = true := by
    simp [State.callerEnabled, hp, hC, hc]
  simp [callerMove, he, hC, hc]

/-- The words of a caller that is there become `ws` by setting its record. -/
theorem State.setStream_eq_set {s : State} {c : Nat} {C : Caller} (ws : List Word) (hC : s.callers[c]? = some C) :
    s.setStream c ws = { s with callers := s.callers.set c { C with stream := ws } } := by
  rw [State.setStream, callers_modify_eq_set _ hC]

/-- Settles O40: the enabled move of an Idle caller, with its new stream written as a set of its record. -/
theorem stepRunsIssuedCommand : Obligations.StepRunsIssuedCommand := by
  intro s c C i rest hr hp hm hq hC hc hd
  have hC' : s.takeMove.callers[c]? = some C := by simpa using hC
  calc step s = callerMove c s.takeMove := step_eq_callerMove ⟨hr, hp⟩ hm
    _ = exec i ((s.takeMove.setActor c).setStream c rest) := callerMove_idle (by simpa using hq) hC' hc hd
    _ = exec i { s.takeMove with actor := c, callers := s.callers.set c { C with stream := rest } } := by
      rw [State.setStream_eq_set rest (s := s.takeMove.setActor c) hC', State.setActor_callers, s.takeMove_callers]
      rfl

/-- Settles O41: the enabled move of a Busy caller. -/
theorem stepContinuesCommand : Obligations.StepContinuesCommand := by
  intro s c C i phase l hr hp hm hq hC hc
  calc step s = callerMove c s.takeMove := step_eq_callerMove ⟨hr, hp⟩ hm
    _ = exec i (s.takeMove.setActor c) := callerMove_busy (by simpa using hq) (by simpa using hC) hc

end Sys2Proof.Machine
end

section
/-! What a step does and by which move, said once, and the small statements about the state: reset, the register bank
and an unclocked port (`10_state.md`). -/

namespace Sys2Proof.Machine

/-! ### Every step by its move (`00_scope.md` rules R19 to R22) -/

@[simp] theorem State.takeMove_params (s : State) : s.takeMove.params = s.params := by
  obtain ⟨_, _, e⟩ := s.takeMove_eq
  rw [e]

@[simp] theorem State.takeMove_faults (s : State) : s.takeMove.faults = s.faults := by
  obtain ⟨_, _, e⟩ := s.takeMove_eq
  rw [e]

@[simp] theorem State.takeMove_refused (s : State) : s.takeMove.refused = s.refused := by
  obtain ⟨_, _, e⟩ := s.takeMove_eq
  rw [e]

/-- What a step does, with the move that does it. -/
inductive StepEffect (s : State) : State → Prop where
  /-- A parameter is out of its range. -/
  | outOfRange : StepEffect s s.refuse
  /-- The move's agent has no enabled step. -/
  | skips : StepEffect s s.takeMove
  /-- A misuse of rule R349 (a) or (b). -/
  | misuse : StepEffect s s.takeMove.refuse
  /-- An Idle caller issues a command. -/
  | issues (c : Nat) (C : Caller) (i : Instr) (rest : List Word) (t : State) (hm : s.nextMove = .caller c)
      (hC : s.callers[c]? = some C) (hc : C.ctl = .idle) (hd : decodeCommand C.stream = .ok (i, rest))
      (hon : s.issuesOn c i.port.toNat) (hx : exec i ((s.takeMove.setActor c).setStream c rest) = .next t) :
      StepEffect s t
  /-- An Idle caller issues an illegal command. -/
  | illegal (c : Nat) (C : Caller) (hC : s.callers[c]? = some C) (hc : C.ctl = .idle) :
      StepEffect s ((s.takeMove.setActor c).raiseFault .illegalCommand c (C.stream.headD 0))
  /-- A Busy caller goes on with its command. -/
  | continues (c : Nat) (C : Caller) (i : Instr) (phase : Phase) (l : Locals) (t : State)
      (hm : s.nextMove = .caller c) (hC : s.callers[c]? = some C) (hc : C.ctl = .busy i phase l)
      (hx : exec i (s.takeMove.setActor c) = .next t) : StepEffect s t
  /-- The ISR of a port fires. -/
  | fires (p : Nat) (P P' : Port) (i : Instr) (hm : s.nextMove = .isr p) (hP : s.ports[p]? = some P)
      (hd : decodeCause (BitVec.ofNat 4 p) P.cv = some i) (hh : handlerStep s.params i P = some P') :
      StepEffect s (s.takeMove.setPort p P')
  /-- The shift engine of a port moves. -/
  | shifts (p : Nat) (m : Byte) (P P' : Port) (hm : s.nextMove = .periph p m) (hP : s.ports[p]? = some P)
      (hx : P.periphStep m = some P') : StepEffect s (s.takeMove.setPort p P')
  /-- ENV raises a mode fault. -/
  | modeFault (p : Nat) (P : Port) (hm : s.nextMove = .modeFault p) (hb : s.takesBusEvent p)
      (hP : s.ports[p]? = some P) : StepEffect s (s.takeMove.setPort p P.modeFault)
  /-- ENV raises another error. -/
  | busError (p : Nat) (P : Port) (hb : s.takesBusEvent p) (hP : s.ports[p]? = some P) :
      StepEffect s (s.takeMove.setPort p P.busError)

/-- A command that an Idle caller's enabled move decodes is issued on the port it names. -/
theorem State.issuesOn_of_decode {s : State} {c : Nat} {C : Caller} {i : Instr} {rest : List Word} (hs : s.takesMove)
    (hm : s.nextMove = .caller c) (hp : s.anyPending = false) (hC : s.callers[c]? = some C) (hc : C.ctl = .idle)
    (hd : decodeCommand C.stream = .ok (i, rest)) : s.issuesOn c i.port.toNat := by
  have hen : s.callerEnabled c = true := by
    simp [State.callerEnabled, hp, hC, hc, ne_nil_of_decodeCommand hd]
  cases hw : C.stream with
  | nil => exact absurd hw (ne_nil_of_decodeCommand hd)
  | cons w ws =>
    rw [hw] at hd
    exact ⟨w, ⟨hs, hm, hen, C, hC, hc, by rw [hw]; rfl⟩, by rw [decodeCommand_port hd]⟩

/-- A port the block has is below 16 when the parameters are in range, so the 4-bit field holds its number. -/
theorem State.toNat_ofNat_port {s : State} {p : Nat} {P : Port} (hr : s.paramsInRange = true)
    (hP : s.ports[p]? = some P) : (BitVec.ofNat 4 p).toNat = p := by
  have hlt : p < s.ports.length := (List.getElem?_eq_some_iff.mp hP).1
  have hle : s.ports.length ≤ 16 := by
    simp only [State.paramsInRange, State.numPorts, Bool.and_eq_true, decide_eq_true_eq] at hr
    omega
  simp only [BitVec.toNat_ofNat]
  omega

theorem callerMove_effect {s t : State} {c : Nat} (hs : s.takesMove) (hm : s.nextMove = .caller c)
    (h : callerMove c s.takeMove = .next t) : StepEffect s t := by
  rcases callerMove_next h with rfl | ⟨C, hC, hp, h⟩
  · exact .skips
  · rw [s.takeMove_callers] at hC
    rw [s.takeMove_anyPending] at hp
    rcases h with ⟨i, ph, l, hc, hx⟩ | ⟨hc, i, rest, hd, hx⟩ | ⟨hc, _, -, rfl⟩
    · exact .continues c C i ph l t hm hC hc hx
    · exact .issues c C i rest t hm hC hc hd (s.issuesOn_of_decode hs hm hp hC hc hd) hx
    · exact .illegal c C hC hc

theorem isrMove_effect {s t : State} {p : Nat} (hs : s.takesMove) (hm : s.nextMove = .isr p)
    (h : isrMove p s.takeMove = .next t) : StepEffect s t := by
  rcases isrMove_next h with rfl | ⟨P, i, hP, hd, hx⟩
  · exact .skips
  · rw [s.takeMove_ports] at hP
    obtain ⟨hi, hport⟩ := decodeCause_branch hd
    obtain ⟨Q, P', hQ, hh, rfl⟩ := exec_handler hi hx
    rw [hport, State.toNat_ofNat_port hs.2 hP]
    rw [State.hasPort, hport, State.toNat_ofNat_port hs.2 hP, s.takeMove_ports, hP] at hQ
    cases hQ
    rw [s.takeMove_params] at hh
    exact .fires p P P' i hm hP hd hh

theorem peripheralMove_effect {s t : State} {p : Nat} {m : Byte} (hm : s.nextMove = .periph p m)
    (h : peripheralMove p m s.takeMove = .next t) : StepEffect s t := by
  rcases peripheralMove_next h with rfl | ⟨P, P', hP, hx, rfl⟩
  · exact .skips
  · exact .shifts p m P P' hm (by simpa using hP) hx

/-- The two misuse moves set REFUSED or do nothing. -/
theorem callFromInterruptMove_cases (p : Nat) (s : State) :
    callFromInterruptMove p s = s ∨ callFromInterruptMove p s = s.refuse := by
  unfold callFromInterruptMove
  split
  · exact .inl rfl
  · split
    · exact .inr rfl
    · exact .inl rfl

theorem callWhileBusyMove_cases (c : Nat) (s : State) :
    callWhileBusyMove c s = s ∨ callWhileBusyMove c s = s.refuse := by
  unfold callWhileBusyMove
  split
  · exact .inl rfl
  · split
    · exact .inl rfl
    · exact .inr rfl
    · exact .inl rfl

/-- What a step that gives a next state does. -/
theorem step_effect {s t : State} (h : step s = .next t) : StepEffect s t := by
  obtain ⟨hr, ⟨-, rfl⟩ | ⟨hp, h⟩⟩ := step_next h
  · exact .outOfRange
  · have hs : s.takesMove := ⟨hr, hp⟩
    cases hm : s.nextMove with
    | caller c => exact callerMove_effect hs hm (by rwa [hm] at h)
    | isr p => exact isrMove_effect hs hm (by rwa [hm] at h)
    | periph p m => exact peripheralMove_effect hm (by rwa [hm] at h)
    | modeFault p =>
      rw [hm] at h
      cases h
      rcases environmentMove_cases p Port.modeFault s.takeMove with e | ⟨P, hP, hk, e⟩ <;> rw [e]
      · exact .skips
      · rw [s.takeMove_ports] at hP
        exact .modeFault p P hm ⟨hs, .inl hm, P, hP, hk⟩ hP
    | busError p =>
      rw [hm] at h
      cases h
      rcases environmentMove_cases p Port.busError s.takeMove with e | ⟨P, hP, hk, e⟩ <;> rw [e]
      · exact .skips
      · rw [s.takeMove_ports] at hP
        exact .busError p P ⟨hs, .inr hm, P, hP, hk⟩ hP
    | callFromInterrupt p =>
      rw [hm] at h
      cases h
      rcases callFromInterruptMove_cases p s.takeMove with e | e <;> rw [e]
      · exact .skips
      · exact .misuse
    | callWhileBusy c =>
      rw [hm] at h
      cases h
      rcases callWhileBusyMove_cases c s.takeMove with e | e <;> rw [e]
      · exact .skips
      · exact .misuse

/-! ### Reset (`10_state.md` rules R61 to R63) -/

/-- Settles O9: every port is `Port.reset` of its drawn level, and every caller `Caller.reset`. -/
theorem resetValues : Obligations.ResetValues := by
  intro params levels n s
  refine ⟨by simp [s, State.resetWith], by simp [s, State.resetWith], rfl, rfl, ?_, ?_⟩
  · intro C hC
    obtain rfl : C = Caller.reset := List.eq_of_mem_replicate hC
    rfl
  · intro P hP
    obtain ⟨level, -, rfl⟩ := List.mem_map.mp hP
    simp [Port.reset, Port.cv, Port.cr, Port.txe, Port.rxne, Port.bsy]

theorem Port.reset_sound (params : Params) (level : Bool) : (Port.reset level).Sound params where
  txqFits := Nat.zero_le _
  rxqFits := Nat.zero_le _
  brFits := Nat.zero_le _
  clockOn := rfl
  untouched _ := rfl

theorem Port.reset_quiescent (level : Bool) : (Port.reset level).quiescent :=
  ⟨rfl, ⟨rfl, rfl, rfl⟩, rfl, rfl, rfl, rfl, fun _ h => nomatch h⟩

/-- At reset a caller that the block has is Idle. -/
theorem State.resetWith_caller {params : Params} {levels : List Bool} {n c : Nat} {C : Caller}
    (h : (State.resetWith params levels n).callers[c]? = some C) : C = Caller.reset :=
  List.eq_of_mem_replicate (List.mem_of_getElem? h)

theorem State.resetWith_inv {params : Params} {levels : List Bool} {n : Nat}
    (h : (State.resetWith params levels n).paramsInRange = true) : (State.resetWith params levels n).Inv where
  params := h
  ports P hP := by
    obtain ⟨level, -, rfl⟩ := List.mem_map.mp hP
    exact Port.reset_sound params level
  busy C hC := by
    obtain rfl : C = Caller.reset := List.eq_of_mem_replicate hC
    intro _ _ _ hc
    cases hc
  results C hC := by
    obtain rfl : C = Caller.reset := List.eq_of_mem_replicate hC
    intro _ hr
    cases hr
  faultsDistinct := List.nodup_nil
  faultStops _ hr := nomatch hr
  stopFaulted c C hC hc := by
    obtain rfl := State.resetWith_caller hC
    cases hc

/-! ### Where a caller is (`10_state.md` rule R32) -/

theorem State.phaseOn_congr {s t : State} {c : Nat} (p : Nat) (h : t.callers[c]? = s.callers[c]?) :
    t.phaseOn p c = s.phaseOn p c := by
  simp only [State.phaseOn, h]

theorem State.phaseOn_missing {s : State} {c : Nat} (p : Nat) (h : s.callers[c]? = none) : s.phaseOn p c = none := by
  simp [State.phaseOn, h]

theorem State.phaseOn_idle {s : State} {c : Nat} {C : Caller} (p : Nat) (hC : s.callers[c]? = some C)
    (hc : C.ctl = .idle) : s.phaseOn p c = none := by
  simp [State.phaseOn, hC, hc]

theorem State.phaseOn_stopped {s : State} {c : Nat} {C : Caller} (p : Nat) (hC : s.callers[c]? = some C)
    (hc : C.ctl = .stopped) : s.phaseOn p c = none := by
  simp [State.phaseOn, hC, hc]

theorem State.phaseOn_busy {s : State} {c : Nat} {C : Caller} {i : Instr} {phase : Phase} {l : Locals} (p : Nat)
    (hC : s.callers[c]? = some C) (hc : C.ctl = .busy i phase l) :
    s.phaseOn p c = if i.port.toNat = p then some phase else none := by
  simp [State.phaseOn, hC, hc]

theorem State.resetWith_phaseOn (params : Params) (levels : List Bool) (n p c : Nat) :
    (State.resetWith params levels n).phaseOn p c = none := by
  cases hC : (State.resetWith params levels n).callers[c]? with
  | none => exact State.phaseOn_missing p hC
  | some C =>
    obtain rfl := State.resetWith_caller hC
    exact State.phaseOn_idle p hC rfl

/-! ### The port of one user, by the phase or none -/

/-- What the one-user invariant asks of the port when its user is in the phase, if in one. Between commands the port is
quiescent, as it is at EX1. -/
def Port.fitsUser (P : Port) (phase : Option Phase) : Prop := P.atPhase (phase.getD .ex1)

theorem State.soleInv_iff {s : State} {p c : Nat} : s.SoleInv p c ↔
    (∀ c', c' ≠ c → s.phaseOn p c' = none) ∧ ∀ P, s.ports[p]? = some P → P.fitsUser (s.phaseOn p c) := by
  constructor
  · rintro ⟨hother, hport⟩
    refine ⟨hother, fun P hP => ?_⟩
    have := hport P hP
    cases h : s.phaseOn p c <;> rw [h] at this <;> exact this
  · rintro ⟨hother, hport⟩
    refine ⟨hother, fun P hP => ?_⟩
    have := hport P hP
    cases h : s.phaseOn p c <;> rw [h] at this <;> exact this

theorem State.resetWith_soleInv (params : Params) (levels : List Bool) (n p c : Nat) :
    (State.resetWith params levels n).SoleInv p c := by
  refine State.soleInv_iff.mpr ⟨fun c' _ => State.resetWith_phaseOn params levels n p c', fun P hP => ?_⟩
  rw [State.resetWith_phaseOn]
  obtain ⟨level, -, rfl⟩ := List.mem_map.mp (List.mem_of_getElem? hP)
  exact Port.reset_quiescent level

theorem State.resetWith_countInv (params : Params) (levels : List Bool) (n p c : Nat) :
    (State.resetWith params levels n).CountInv p c := by
  intro C P i ph l len hC hc
  obtain rfl := State.resetWith_caller hC
  cases hc

/-- Settles O10: the reset state has reset ports, Idle callers and no fault record. -/
theorem resetMeetsInvariants : Obligations.ResetMeetsInvariants := by
  have hall (params : Params) (levels : List Bool) (n : Nat)
      (h : (State.resetWith params levels n).paramsInRange = true) :
      (State.resetWith params levels n).Inv ∧
        ∀ p c, (State.resetWith params levels n).SoleInv p c ∧ (State.resetWith params levels n).CountInv p c :=
    ⟨State.resetWith_inv h, fun p c =>
      ⟨State.resetWith_soleInv params levels n p c, State.resetWith_countInv params levels n p c⟩⟩
  exact ⟨hall, hall Config.vectorParams _ 1 rfl⟩

/-! ### The register bank (`10_state.md` rules R33 to R47) -/

/-- CR has 128 values, one for each MODE, BR, SPE and CLKEN. -/
theorem Port.cr_fields (P : Port) :
    P.cr.extractLsb' 0 2 = P.mode ∧ P.cr.getLsbD 2 = true ∧ P.cr.extractLsb' 3 3 = P.br ∧ P.cr.getLsbD 6 = P.spe ∧
      P.cr.extractLsb' 7 3 = 0 ∧ P.cr.getLsbD 10 = P.clken ∧ P.cr.extractLsb' 11 21 = 0 := by
  unfold Port.cr
  generalize P.mode = mode, P.br = br, P.spe = spe, P.clken = clken
  revert mode br spe clken
  decide

theorem Port.ier_fields (P : Port) :
    P.ier.getLsbD 0 = P.txeie ∧ P.ier.getLsbD 1 = P.rxneie ∧ P.ier.getLsbD 2 = P.errie ∧
      P.ier.extractLsb' 3 29 = 0 := by
  unfold Port.ier
  generalize P.txeie = txeie, P.rxneie = rxneie, P.errie = errie
  revert txeie rxneie errie
  decide

theorem Port.sr_fields (P : Port) :
    P.sr.getLsbD 0 = P.txe ∧ P.sr.getLsbD 1 = P.rxne ∧ P.sr.getLsbD 2 = P.modf ∧ P.sr.getLsbD 3 = P.errf ∧
      P.sr.getLsbD 4 = P.bsy ∧ P.sr.extractLsb' 5 27 = 0 := by
  unfold Port.sr
  generalize P.txe = txe, P.rxne = rxne, P.modf = modf, P.errf = errf, P.bsy = bsy
  revert txe rxne modf errf bsy
  decide

/-- A register of one bit: LOCK, CS and CFG. -/
theorem bitRegister_fields (b : Bool) :
    (0#31 ++ BitVec.ofBool b : Word).getLsbD 0 = b ∧ (0#31 ++ BitVec.ofBool b : Word).extractLsb' 1 31 = 0 := by
  revert b
  decide

/-- A register of one 16-bit count: TXQC and RXQC. -/
theorem countRegister_fields (n : BitVec 16) :
    (0#16 ++ n : Word).extractLsb' 0 16 = n ∧ (0#16 ++ n : Word).extractLsb' 16 16 = 0 := by
  have hn : (0#16 ++ n : Word).toNat = n.toNat := by
    show (0#16 ++ n).toNat = _
    rw [toNat_append_eq]
    simp
  constructor <;> apply BitVec.eq_of_toNat_eq <;>
    simp only [BitVec.extractLsb'_toNat, hn, Nat.shiftRight_eq_div_pow, BitVec.ofNat_eq_ofNat, BitVec.toNat_ofNat] <;>
    omega

/-- Settles O11, register by register. -/
theorem registerBankFields : Obligations.RegisterBankFields := by
  intro P
  exact ⟨P.cr_fields, P.ier_fields, P.sr_fields, bitRegister_fields P.taken, countRegister_fields _,
    countRegister_fields _, bitRegister_fields P.csLevel, bitRegister_fields P.configured⟩

/-! ### The clock (`10_state.md` rule R40) -/

theorem Port.periphStep_of_clockOff {P : Port} (m : Byte) (h : P.clken = false) : P.periphStep m = none := by
  simp [Port.periphStep, h]

theorem environmentMove_of_clockOff {s : State} {p : Nat} {P : Port} (event : Port → Port) (hP : s.ports[p]? = some P)
    (h : P.clken = false) : environmentMove p event s = s := by
  simp [environmentMove, hP, h]

/-- Settles O38: an unclocked port has no enabled step of the shift engine, and takes no bus event. -/
theorem clockOffNothingMoves : Obligations.ClockOffNothingMoves := by
  intro s p m P hP h
  refine ⟨?_, ?_, ?_⟩
  · simp [runMove, peripheralMove, hP, P.periphStep_of_clockOff m h]
  · simp [runMove, environmentMove_of_clockOff _ hP h]
  · simp [runMove, environmentMove_of_clockOff _ hP h]

end Sys2Proof.Machine
end

section
/-! What stays: the fault records and the Stopped callers, the configuration, and the traces (`10_state.md`). -/

namespace Sys2Proof.Machine

/-! ### FAULTS, REFUSED, the parameters and Stopped callers (`10_state.md` rule R57) -/

/-- From `s` to `t` no fault record is lost, REFUSED is not cleared, the parameters and the numbers of ports and callers
are the same, and a Stopped caller's record is too. -/
structure State.Sticky (s t : State) : Prop where
  faults : s.faults ⊆ t.faults
  refused : s.refused = true → t.refused = true
  params : t.params = s.params
  portCount : t.ports.length = s.ports.length
  callerCount : t.callers.length = s.callers.length
  stopped : ∀ (c : Nat) (C : Caller), s.callers[c]? = some C → C.ctl = .stopped → t.callers[c]? = some C

theorem State.Sticky.trans {s t u : State} (h : s.Sticky t) (k : t.Sticky u) : s.Sticky u where
  faults := List.Subset.trans h.faults k.faults
  refused := k.refused ∘ h.refused
  params := k.params.trans h.params
  portCount := k.portCount.trans h.portCount
  callerCount := k.callerCount.trans h.callerCount
  stopped c C hC hc := k.stopped c C (h.stopped c C hC hc) hc

theorem State.refuse_sticky (s : State) : s.Sticky s.refuse :=
  ⟨List.Subset.refl _, fun _ => rfl, rfl, rfl, rfl, fun _ _ hC _ => hC⟩

theorem State.takeMove_sticky (s : State) : s.Sticky s.takeMove where
  faults := by simp
  refused := by simp
  params := by simp
  portCount := by simp
  callerCount := by simp
  stopped c C hC _ := by simpa using hC

theorem State.setPort_sticky (s : State) (p : Nat) (P : Port) : s.Sticky (s.setPort p P) where
  faults := List.Subset.refl _
  refused := id
  params := rfl
  portCount := by simp
  callerCount := rfl
  stopped _ _ hC _ := hC

theorem State.setActor_sticky (s : State) (c : Nat) : s.Sticky (s.setActor c) :=
  ⟨List.Subset.refl _, id, rfl, rfl, rfl, fun _ _ hC _ => hC⟩

/-- A caller that is not Stopped may take new words. -/
theorem State.setStream_sticky {s : State} {c : Nat} {C : Caller} (ws : List Word) (hC : s.callers[c]? = some C)
    (hc : C.ctl ≠ .stopped) : s.Sticky (s.setStream c ws) where
  faults := List.Subset.refl _
  refused := id
  params := rfl
  portCount := rfl
  callerCount := by simp
  stopped c' C' hC' hc' := by
    have hne : c' ≠ c := by
      rintro rfl
      cases hC.symm.trans hC'
      exact hc hc'
    rw [State.setStream_callers, callers_modify_ne _ _ hne]
    exact hC'

/-- A change of a port and of a caller that is not Stopped. -/
theorem State.ChangesOnly.sticky {p c : Nat} {s t : State} {C : Caller} (h : s.ChangesOnly p c t)
    (hC : s.callers[c]? = some C) (hc : C.ctl ≠ .stopped) : s.Sticky t where
  faults := h.faultsKept
  refused := h.refusedKept
  params := h.params
  portCount := h.portCount
  callerCount := h.callerCount
  stopped c' C' hC' hc' := by
    have hne : c' ≠ c := by
      rintro rfl
      cases hC.symm.trans hC'
      exact hc hc'
    rw [h.otherCallers c' hne]
    exact hC'

theorem exec_sticky {s t : State} {i : Instr} {C : Caller} (hC : s.callers[s.actor]? = some C) (hc : C.ctl ≠ .stopped)
    (h : exec i s = .next t) : s.Sticky t := by
  cases hi : i.isCommand with
  | true => exact (exec_command_changesOnly hi h).sticky hC hc
  | false =>
    obtain ⟨P, P', -, -, rfl⟩ := exec_handler hi h
    exact s.setPort_sticky _ _

theorem StepEffect.sticky {s t : State} (h : StepEffect s t) : s.Sticky t := by
  cases h with
  | outOfRange => exact s.refuse_sticky
  | skips => exact s.takeMove_sticky
  | misuse => exact s.takeMove_sticky.trans s.takeMove.refuse_sticky
  | issues c C i rest t hm hC hc hd hon hx =>
    have hC' : (s.takeMove.setActor c).callers[c]? = some C := by simpa using hC
    have hns : C.ctl ≠ .stopped := by simp [hc]
    have hu : s.Sticky ((s.takeMove.setActor c).setStream c rest) :=
      (s.takeMove_sticky.trans (s.takeMove.setActor_sticky c)).trans (State.setStream_sticky rest hC' hns)
    exact hu.trans (exec_sticky (C := { C with stream := rest }) (callers_modify_self _ hC') hns hx)
  | illegal c C hC hc =>
    have hC' : (s.takeMove.setActor c).callers[c]? = some C := by simpa using hC
    have hk := (s.takeMove.setActor c).raiseFault_changesOnly 0 c .illegalCommand (C.stream.headD 0)
    exact (s.takeMove_sticky.trans (s.takeMove.setActor_sticky c)).trans (hk.sticky hC' (by simp [hc]))
  | continues c C i ph l t hm hC hc hx =>
    have hC' : (s.takeMove.setActor c).callers[c]? = some C := by simpa using hC
    exact (s.takeMove_sticky.trans (s.takeMove.setActor_sticky c)).trans (exec_sticky hC' (by simp [hc]) hx)
  | fires | shifts | modeFault | busError => exact s.takeMove_sticky.trans (s.takeMove.setPort_sticky _ _)

/-- Settles O55: every step is made of updates that are sticky. -/
theorem faultsAreSticky : Obligations.FaultsAreSticky := by
  intro s t h
  obtain ⟨hf, hr, hparams, hports, hcallers, hstopped⟩ := (step_effect h).sticky
  exact ⟨fun _ hx => hf hx, hr, hparams, hports, hcallers, hstopped⟩

/-! ### What a phase leaves of its port -/

/-- What no phase of a transfer changes: the configuration, the clock, the error flags and the traces. -/
structure Port.PhaseFrame (P P' : Port) : Prop where
  configured : P'.configured = P.configured
  clken : P'.clken = P.clken
  modf : P'.modf = P.modf
  errf : P'.errf = P.errf
  wire : P'.wire = P.wire
  drlog : P'.drlog = P.drlog

theorem Port.PhaseFrame.refl (P : Port) : P.PhaseFrame P := ⟨rfl, rfl, rfl, rfl, rfl, rfl⟩

theorem Port.lockTake_frame {P P' : Port} (h : P.lockTake = some P') : P.PhaseFrame P' := by
  unfold Port.lockTake at h
  split at h
  · cases h
  · cases h
    exact ⟨rfl, rfl, rfl, rfl, rfl, rfl⟩

theorem Port.pushTx_frame {P P' : Port} {n : Nat} {b : Byte} (h : P.pushTx n b = some P') : P.PhaseFrame P' := by
  rw [Port.pushTx_eq] at h
  split at h
  · cases h
    exact ⟨rfl, rfl, rfl, rfl, rfl, rfl⟩
  · cases h

theorem txPhase_frame (qcap : Nat) (t : TxPhase) (l : Locals) (P : Port) : P.PhaseFrame (txPhase qcap t l P).1 := by
  cases t with
  | tx1 | tx5 =>
    simp only [txPhase]
    split
    · exact Port.lockTake_frame ‹_›
    · exact .refl P
  | tx2 =>
    simp only [txPhase]
    split
    · exact .refl P
    · split
      · exact Port.pushTx_frame ‹_›
      · exact .refl P
  | _ => exact ⟨rfl, rfl, rfl, rfl, rfl, rfl⟩

theorem rxPhase_frame (n : BitVec 16) (f : Byte) (r : RxPhase) (l : Locals) (P : Port) :
    P.PhaseFrame (rxPhase n f r l P).1 := by
  cases r with
  | rx1 | rx5 =>
    simp only [rxPhase]
    split
    · exact Port.lockTake_frame ‹_›
    · exact .refl P
  | _ => exact ⟨rfl, rfl, rfl, rfl, rfl, rfl⟩

theorem exPhase_frame (qcap : Nat) (n : BitVec 16) (ph : Phase) (l : Locals) (P : Port) :
    P.PhaseFrame (exPhase qcap n ph l P).1 := by
  cases ph with
  | tx t => exact txPhase_frame qcap t l P
  | rx r => exact rxPhase_frame n 0 r l P
  | ex1 | ex5 => exact ⟨rfl, rfl, rfl, rfl, rfl, rfl⟩

/-- A phase that fits its transfer is one of TRANSMIT's, of RECEIVE's or of EXCHANGE's. -/
theorem phaseStep_cases {motive : Port × Flow → Prop} (qcap : Nat) {i : Instr} {ph : Phase} (l : Locals) (P : Port)
    (hf : ph.fits i = true) (htx : ∀ t, ph = .tx t → motive (txPhase qcap t l P))
    (hrx : ∀ r n f, ph = .rx r → motive (rxPhase n f r l P)) (hex : ∀ n, motive (exPhase qcap n ph l P)) :
    motive (phaseStep qcap i ph l P) := by
  cases i with
  | transmit =>
    cases ph with
    | tx t => exact htx t rfl
    | _ => cases hf
  | receive p n f =>
    cases ph with
    | rx r => exact hrx r n f rfl
    | _ => cases hf
  | exchange p payload n => exact hex n
  | _ => cases ph <;> cases hf

theorem phaseStep_frame (qcap : Nat) {i : Instr} {ph : Phase} (l : Locals) (P : Port) (hf : ph.fits i = true) :
    P.PhaseFrame (phaseStep qcap i ph l P).1 :=
  phaseStep_cases (motive := fun r => P.PhaseFrame r.1) qcap l P hf (fun t _ => txPhase_frame qcap t l P)
    (fun r n f _ => rxPhase_frame n f r l P) (fun n => exPhase_frame qcap n ph l P)

/-! ### What a firing does to its port -/

/-- What no firing changes: the configuration and the clock, ERRF and the wire trace; it sets no MODF, and DRLOG gains
the byte popped from TXQ or nothing. -/
structure Port.FiringFrame (P P' : Port) : Prop where
  configured : P'.configured = P.configured
  clken : P'.clken = P.clken
  modf : P.modf = false → P'.modf = false
  errf : P'.errf = P.errf
  wire : P'.wire = P.wire
  drlog : P'.drlog = P.drlog ∨ ∃ b, P.txq = b :: P'.txq ∧ P'.drlog = P.drlog ++ [b]

theorem Port.isrTxe_frame (P : Port) : P.FiringFrame P.isrTxe := by
  unfold Port.isrTxe
  cases h : P.txq with
  | nil => exact ⟨rfl, rfl, id, rfl, rfl, .inl rfl⟩
  | cons b q => exact ⟨rfl, rfl, id, rfl, rfl, .inr ⟨b, h, rfl⟩⟩

theorem Port.countReceived_frame (P : Port) (params : Params) (b : Byte) :
    P.FiringFrame (P.countReceived params b) := by
  unfold Port.countReceived
  simp only
  repeat' split
  all_goals exact ⟨rfl, rfl, id, rfl, rfl, .inl rfl⟩

theorem Port.readData_eq_some {P P' : Port} {b : Byte} (h : P.readData = some (b, P')) :
    P.rxbuf = some b ∧ P' = { P with rxbuf := none } := by
  cases hb : P.rxbuf with
  | none => simp [Port.readData, hb] at h
  | some m =>
    simp only [Port.readData, hb, Option.map_some, Option.some.injEq, Prod.mk.injEq] at h
    obtain ⟨rfl, rfl⟩ := h
    exact ⟨rfl, rfl⟩

/-- The handler branches that give a record, one by one. -/
theorem handlerStep_cases {params : Params} {i : Instr} {P P' : Port} (h : handlerStep params i P = some P') :
    ((∃ p, i = .isrTxe p) ∧ P' = P.isrTxe) ∨
    ((∃ p, i = .isrRxne p) ∧ ∃ b, P.rxbuf = some b ∧ P' = { P with rxbuf := none }.countReceived params b) ∨
    ((∃ p, i = .isrModf p) ∧ P' = P.isrModf) ∨
    ((∃ p, i = .isrNone p) ∧ P' = P) := by
  cases i with
  | isrTxe p =>
    cases h
    exact .inl ⟨⟨p, rfl⟩, rfl⟩
  | isrRxne p =>
    obtain ⟨⟨b, Q⟩, hr, rfl⟩ := Option.map_eq_some_iff.mp h
    obtain ⟨hb, rfl⟩ := Port.readData_eq_some hr
    exact .inr (.inl ⟨⟨p, rfl⟩, b, hb, rfl⟩)
  | isrModf p =>
    cases h
    exact .inr (.inr (.inl ⟨⟨p, rfl⟩, rfl⟩))
  | isrNone p =>
    cases h
    exact .inr (.inr (.inr ⟨⟨p, rfl⟩, rfl⟩))
  | _ => cases h

theorem handlerStep_frame {params : Params} {i : Instr} {P P' : Port} (h : handlerStep params i P = some P') :
    P.FiringFrame P' := by
  rcases handlerStep_cases h with ⟨-, rfl⟩ | ⟨-, b, -, rfl⟩ | ⟨-, rfl⟩ | ⟨-, rfl⟩
  · exact P.isrTxe_frame
  · obtain ⟨h1, h2, h3, h4, h5, h6⟩ := Port.countReceived_frame { P with rxbuf := none } params b
    exact ⟨h1, h2, h3, h4, h5, h6⟩
  · exact ⟨rfl, rfl, fun _ => rfl, rfl, rfl, .inl rfl⟩
  · exact ⟨rfl, rfl, id, rfl, rfl, .inl rfl⟩

/-! ### What the shift engine does to its port -/

/-- What a move of the shift engine can be: Load, Fill or Complete. -/
theorem Port.periphStep_cases {P P' : Port} {m : Byte} (h : P.periphStep m = some P') :
    (∃ f, P.shift = some f ∧ P' = P.complete f m) ∨
    (∃ b, P.shift = none ∧ P.txbuf = some b ∧ P' = P.load b) ∨
    (P.shift = none ∧ P.txbuf = none ∧ P.rxneie = true ∧ P.rxbuf = none ∧ P' = P.fillFrame) := by
  unfold Port.periphStep at h
  split at h
  · split at h
    · cases h
      exact .inl ⟨_, ‹_›, rfl⟩
    · split at h
      · split at h
        · cases h
          exact .inr (.inl ⟨_, ‹_›, ‹_›, rfl⟩)
        · split at h
          · rename_i hr
            cases h
            rw [Bool.and_eq_true, Option.isNone_iff_eq_none] at hr
            exact .inr (.inr ⟨‹_›, ‹_›, hr.1, hr.2, rfl⟩)
          · cases h
      · cases h
  · cases h

/-- What Complete leaves, whether its frame is captured or not. -/
theorem Port.complete_eq (P : Port) (f : Shift) (m : Byte) : P.complete f m = { P with
    rxbuf := if f.capture = true ∧ P.rxbuf = none then some m else P.rxbuf
    errf := P.errf || (f.capture && P.rxbuf.isSome)
    shift := none
    wire := P.wire ++ [⟨f.mosi, if f.capture then some m else none, f.csStart, P.csLevel, .complete⟩] } := by
  cases hc : f.capture <;> cases hb : P.rxbuf <;>
    simp [Port.complete, Port.completeFrame, Port.capture, Port.emit, hc, hb]

/-! ### CONFIGURED and CLKEN (`10_state.md` rules R34 and R40) -/

theorem PortEffect.keeps_configuration {params : Params} {P P' : Port} (h : PortEffect params P P') :
    (P.configured = true → P'.configured = true) ∧ (P.clken = true → P'.clken = true) := by
  have unchanged {Q : Port} (h1 : Q.configured = P.configured) (h2 : Q.clken = P.clken) :
      (P.configured = true → Q.configured = true) ∧ (P.clken = true → Q.clken = true) :=
    ⟨h1.trans, h2.trans⟩
  cases h with
  | configure => exact ⟨fun _ => rfl, fun _ => rfl⟩
  | same | driveCs | busError => exact unchanged rfl rfl
  | phase i ph l hf => exact unchanged (phaseStep_frame _ l P hf).configured (phaseStep_frame _ l P hf).clken
  | handler i P' hh => exact unchanged (handlerStep_frame hh).configured (handlerStep_frame hh).clken
  | periph m P' hx =>
    rcases Port.periphStep_cases hx with ⟨f, -, rfl⟩ | ⟨b, -, -, rfl⟩ | ⟨-, -, -, -, rfl⟩
    · rw [Port.complete_eq]
      exact unchanged rfl rfl
    · exact unchanged rfl rfl
    · exact unchanged rfl rfl
  | modeFault =>
    rw [Port.modeFault, Port.abortFrame_eq]
    exact unchanged rfl rfl

/-- Settles O56: no effect that a step has on a port clears either bit. -/
theorem configurationIsNeverUndone : Obligations.ConfigurationIsNeverUndone := by
  intro s t p P P' h hP hP'
  exact (step_portEffect h hP hP').keeps_configuration

/-! ### What a step does to one port, and which move does it -/

/-- What a step can do to the record `P` of port `p`, with the move that does it. -/
inductive PortStep (s : State) (p : Nat) (P : Port) : Port → Prop where
  | same : PortStep s p P P
  /-- An Idle caller issues a command of one phase. -/
  | completes (c : Nat) (C : Caller) (i : Instr) (rest : List Word) (P' : Port) (r : CommandResult)
      (hm : s.nextMove = .caller c) (hC : s.callers[c]? = some C) (hc : C.ctl = .idle)
      (hd : decodeCommand C.stream = .ok (i, rest)) (hport : i.port.toNat = p) (he : IssueEffect s.params i P P' r) :
      PortStep s p P P'
  /-- A Busy caller takes a phase of its transfer. -/
  | phase (i : Instr) (ph : Phase) (l : Locals) (hf : ph.fits i = true) :
      PortStep s p P (phaseStep s.params.qcap i ph l P).1
  /-- A caller is Busy with a handler branch, as in no state that meets the invariant. -/
  | misfires (c : Nat) (C : Caller) (i : Instr) (ph : Phase) (l : Locals) (P' : Port) (hC : s.callers[c]? = some C)
      (hc : C.ctl = .busy i ph l) (hi : i.isCommand = false) (hh : handlerStep s.params i P = some P') :
      PortStep s p P P'
  | fires (i : Instr) (P' : Port) (hm : s.nextMove = .isr p) (hh : handlerStep s.params i P = some P') :
      PortStep s p P P'
  | shifts (m : Byte) (P' : Port) (hm : s.nextMove = .periph p m) (hx : P.periphStep m = some P') : PortStep s p P P'
  | modeFault (hm : s.nextMove = .modeFault p) (hb : s.takesBusEvent p) : PortStep s p P P.modeFault
  | busError (hb : s.takesBusEvent p) : PortStep s p P P.busError

/-- A port's record after one port is written: as before, or the one written. -/
theorem State.port_of_setPort {u : State} {p q : Nat} {P P' Q X : Port} (hQ : u.ports[q]? = some Q)
    (hP : u.ports[p]? = some P) (h : (u.setPort q X).ports[p]? = some P') : P' = P ∨ (q = p ∧ Q = P ∧ X = P') := by
  by_cases e : p = q
  · subst e
    rw [State.ports_setPort_self X hQ] at h
    exact .inr ⟨rfl, Option.some.inj (hQ.symm.trans hP), Option.some.inj h⟩
  · rw [State.ports_setPort_ne u X e, hP] at h
    exact .inl (Option.some.inj h).symm

/-- What an instruction does to the record of the port it names, if it changes it. -/
theorem exec_port {u t : State} {i : Instr} {C : Caller} {p : Nat} {P P' : Port} (hC : u.callers[u.actor]? = some C)
    (h : exec i u = .next t) (hP : u.ports[p]? = some P) (hP' : t.ports[p]? = some P') :
    P' = P ∨ i.port.toNat = p ∧
      ((C.ctl = .idle ∧ ∃ r, IssueEffect u.params i P P' r) ∨
        (∃ ph l, C.ctl = .busy i ph l ∧ ph.fits i = true ∧ P' = (phaseStep u.params.qcap i ph l P).1) ∨
        (i.isCommand = false ∧ handlerStep u.params i P = some P')) := by
  have same (e : t.ports = u.ports) : P' = P := by
    rw [e, hP] at hP'
    exact (Option.some.inj hP').symm
  cases hi : i.isCommand with
  | true =>
    obtain ⟨D, hD, he⟩ := exec_command hi h
    obtain rfl : D = C := Option.some.inj (hD.symm.trans hC)
    cases he with
    | rejects | faults | starts | refuses => exact .inl (same rfl)
    | completes hc Q X r hQ hie =>
      rcases State.port_of_setPort (X := X) hQ hP hP' with e | ⟨e, rfl, rfl⟩
      · exact .inl e
      · exact .inr ⟨e, .inl ⟨hc, r, hie⟩⟩
    | phase ph l hc Q hQ ht hf =>
      rw [State.follow_ports] at hP'
      rcases State.port_of_setPort hQ hP hP' with e | ⟨e, rfl, rfl⟩
      · exact .inl e
      · exact .inr ⟨e, .inr (.inl ⟨ph, l, hc, hf, rfl⟩)⟩
  | false =>
    obtain ⟨Q, X, hQ, hh, rfl⟩ := exec_handler hi h
    rcases State.port_of_setPort hQ hP hP' with e | ⟨e, rfl, rfl⟩
    · exact .inl e
    · exact .inr ⟨e, .inr (.inr ⟨rfl, hh⟩)⟩

/-- What a step that gives a next state does to one port. -/
theorem StepEffect.portStep {s t : State} {p : Nat} {P P' : Port} (h : StepEffect s t) (hP : s.ports[p]? = some P)
    (hP' : t.ports[p]? = some P') : PortStep s p P P' := by
  have same (e : t.ports = s.ports) : PortStep s p P P' := by
    rw [e, hP] at hP'
    cases hP'
    exact .same
  have hu : s.takeMove.ports[p]? = some P := by simpa using hP
  cases h with
  | outOfRange => exact same rfl
  | skips | misuse | illegal => exact same (by simp)
  | issues c C i rest t hm hC hc hd hon hx =>
    have hC' : (s.takeMove.setActor c).callers[c]? = some C := by simpa using hC
    rcases exec_port (C := { C with stream := rest }) (callers_modify_self _ hC') hx hu hP' with
      rfl | ⟨hport, ⟨-, r, he⟩ | ⟨ph, l, hb, -⟩ | ⟨hi, -⟩⟩
    · exact .same
    · rw [State.setStream_params, State.setActor_params, s.takeMove_params] at he
      exact .completes c C i rest P' r hm hC hc hd hport he
    · cases hc.symm.trans hb
    · cases hi.symm.trans (decodeCommand_isCommand hd)
  | continues c C i ph l t hm hC hc hx =>
    have hC' : (s.takeMove.setActor c).callers[c]? = some C := by simpa using hC
    rcases exec_port hC' hx hu hP' with rfl | ⟨hport, ⟨hc', -⟩ | ⟨ph', l', -, hf, rfl⟩ | ⟨hi, hh⟩⟩
    · exact .same
    · cases hc.symm.trans hc'
    · rw [State.setActor_params, s.takeMove_params]
      exact .phase i ph' l' hf
    · rw [State.setActor_params, s.takeMove_params] at hh
      exact .misfires c C i ph l P' hC hc hi hh
  | fires q Q X i hm hQ hd hh =>
    rcases State.port_of_setPort (by simpa using hQ) hu hP' with rfl | ⟨rfl, rfl, rfl⟩
    · exact .same
    · exact .fires i _ hm hh
  | shifts q m Q X hm hQ hx =>
    rcases State.port_of_setPort (by simpa using hQ) hu hP' with rfl | ⟨rfl, rfl, rfl⟩
    · exact .same
    · exact .shifts m _ hm hx
  | modeFault q Q hm hb hQ =>
    rcases State.port_of_setPort (by simpa using hQ) hu hP' with rfl | ⟨rfl, rfl, rfl⟩
    · exact .same
    · exact .modeFault hm hb
  | busError q Q hb hQ =>
    rcases State.port_of_setPort (by simpa using hQ) hu hP' with rfl | ⟨rfl, rfl, rfl⟩
    · exact .same
    · exact .busError hb

/-! ### What a caller is Busy with -/

/-- Every Busy caller runs a command: the part of the invariant of every step that rules out a handler branch run by a
caller. -/
def State.BusyOnCommands (s : State) : Prop :=
  ∀ (c : Nat) (C : Caller) (i : Instr) (ph : Phase) (l : Locals), s.callers[c]? = some C → C.ctl = .busy i ph l →
    i.isCommand = true

theorem isCommand_of_isTransfer {i : Instr} (h : i.isTransfer = true) : i.isCommand = true := by
  cases i with
  | transmit | receive | exchange => rfl
  | _ => cases h

theorem State.Inv.busyOnCommands {s : State} (h : s.Inv) : s.BusyOnCommands :=
  fun _ C i ph l hC hc => isCommand_of_isTransfer (h.busy C (List.mem_of_getElem? hC) i ph l hc).transfer

/-! ### The traces (`10_state.md` rules R54 and R55) -/

/-- Ending a frame as Aborted adds its record to WIRE, if there is one, and nothing to DRLOG. -/
theorem Port.abortFrame_traces (P : Port) : P.abortFrame.drlog = P.drlog ∧
    (P.abortFrame.wire = P.wire ∨ ∃ f, P.shift = some f ∧
      P.abortFrame.wire = P.wire ++ [⟨f.mosi, none, f.csStart, P.csLevel, .aborted⟩]) := by
  rw [Port.abortFrame_eq]
  cases P.shift with
  | none => exact ⟨rfl, .inl (List.append_nil _)⟩
  | some f => exact ⟨rfl, .inr ⟨f, rfl, rfl⟩⟩

theorem Port.modeFault_shift (P : Port) : P.modeFault.shift = none := by
  rw [Port.modeFault, Port.abortFrame_eq]

/-- A command of one phase adds to WIRE only when it is a CONFIGURE, and adds nothing to DRLOG. -/
theorem IssueEffect.traces {params : Params} {i : Instr} {P P' : Port} {r : CommandResult}
    (h : IssueEffect params i P P' r) : P'.drlog = P.drlog ∧
      (P'.wire = P.wire ∨ ∃ f, P.shift = some f ∧ P'.shift = none ∧
        (∃ k mode baud cspin pinset, i = .configure k mode baud cspin pinset) ∧
        P'.wire = P.wire ++ [⟨f.mosi, none, f.csStart, P.csLevel, .aborted⟩]) := by
  cases h with
  | configure m k cspin pinset hk hb hi =>
    obtain ⟨hlog, hwire | ⟨f, hf, hwire⟩⟩ := P.abortFrame_traces
    · exact ⟨hlog, .inl hwire⟩
    · obtain ⟨port, mode, baud, rfl⟩ := hi
      exact ⟨hlog, .inr ⟨f, hf, rfl, ⟨port, mode, baud, cspin, pinset, rfl⟩, hwire⟩⟩
  | setCs => exact ⟨rfl, .inl rfl⟩
  | getCs => exact ⟨rfl, .inl rfl⟩

/-- The shift engine adds to WIRE only when a frame completes, and nothing to DRLOG. -/
theorem Port.periphStep_traces {P P' : Port} {m : Byte} (h : P.periphStep m = some P') : P'.drlog = P.drlog ∧
    (P'.wire = P.wire ∨ ∃ f, P.shift = some f ∧ P'.shift = none ∧
      P'.wire = P.wire ++ [⟨f.mosi, if f.capture then some m else none, f.csStart, P.csLevel, .complete⟩]) := by
  rcases Port.periphStep_cases h with ⟨f, hf, rfl⟩ | ⟨b, -, -, rfl⟩ | ⟨-, -, -, -, rfl⟩
  · rw [Port.complete_eq]
    exact ⟨rfl, .inr ⟨f, hf, rfl, rfl⟩⟩
  · exact ⟨rfl, .inl rfl⟩
  · exact ⟨rfl, .inl rfl⟩

/-- Settles O57: what each effect on a port adds to its traces. -/
theorem tracesOnlyGrow : Obligations.TracesOnlyGrow := by
  intro s t p P P' h hP hP'
  cases (step_effect h).portStep hP hP' with
  | same => exact ⟨.inl rfl, .inl rfl⟩
  | completes c C i rest _ r hm hC hc hd hport he =>
    obtain ⟨hlog, hwire⟩ := he.traces
    refine ⟨hwire.imp_right ?_, .inl hlog⟩
    rintro ⟨f, hf, hs, ⟨k, mode, baud, cspin, pinset, rfl⟩, hw⟩
    exact ⟨f, hf, hs, .inr ⟨.inr ⟨c, C, k, mode, baud, cspin, pinset, rest, hm, hC, hc, hd, hport⟩, hw⟩⟩
  | phase i ph l hf => exact ⟨.inl (phaseStep_frame _ l P hf).wire, .inl (phaseStep_frame _ l P hf).drlog⟩
  | misfires c C i ph l _ hC hc hi hh =>
    refine ⟨.inl (handlerStep_frame hh).wire, (handlerStep_frame hh).drlog.imp_right ?_⟩
    rintro ⟨b, hq, hlog⟩
    refine ⟨b, hq, hlog, fun hinv => ?_⟩
    cases hi.symm.trans (hinv.busyOnCommands c C i ph l hC hc)
  | fires i _ hm hh =>
    refine ⟨.inl (handlerStep_frame hh).wire, (handlerStep_frame hh).drlog.imp_right ?_⟩
    rintro ⟨b, hq, hlog⟩
    exact ⟨b, hq, hlog, fun _ => hm⟩
  | shifts m _ hm hx =>
    obtain ⟨hlog, hwire⟩ := Port.periphStep_traces hx
    refine ⟨hwire.imp_right ?_, .inl hlog⟩
    rintro ⟨f, hf, hs, hw⟩
    exact ⟨f, hf, hs, .inl ⟨m, hm, hw⟩⟩
  | modeFault hm hb =>
    obtain ⟨hlog, hwire⟩ := Port.abortFrame_traces { P with modf := true, spe := false }
    refine ⟨hwire.imp_right ?_, .inl hlog⟩
    rintro ⟨f, hf, hw⟩
    exact ⟨f, hf, P.modeFault_shift, .inr ⟨.inl hm, hw⟩⟩
  | busError hb => exact ⟨.inl rfl, .inl rfl⟩

end Sys2Proof.Machine
end

section
/-! A port with one user: what each agent does to the port at each phase, the one-user invariant of every step, and the
runs it holds along (`10_state.md` rule R59, `44_peripheral.md` rule R324). -/

namespace Sys2Proof.Machine

/-! ### The data buffers -/

theorem Port.uncaptured.noOverrun {P : Port} (h : P.uncaptured) : P.noOverrun :=
  fun _ hf hc => nomatch hc.symm.trans (h _ hf)

theorem Port.uncaptured_of_shift_none {P : Port} (h : P.shift = none) : P.uncaptured :=
  fun _ hf => nomatch h.symm.trans hf

theorem Port.stop_uncaptured (P : Port) : P.stop.uncaptured := by
  intro f hf
  obtain ⟨g, -, rfl⟩ := Option.map_eq_some_iff.mp hf
  rfl

theorem Port.stop_buffersEmpty (P : Port) : P.stop.buffersEmpty := ⟨rfl, rfl, P.stop_uncaptured⟩

/-! ### What the shift engine and ENV do to a port at a phase -/

/-- What every move of the shift engine and of ENV keeps: the lock, the enables and the queues; TXBUF empty; that
nothing is received while RXNEIE is off; and, with TXBUF empty, that no overrun is due. -/
structure Port.BusFrame (P P' : Port) : Prop where
  taken : P'.taken = P.taken
  txeie : P'.txeie = P.txeie
  rxneie : P'.rxneie = P.rxneie
  errie : P'.errie = P.errie
  txq : P'.txq = P.txq
  rxq : P'.rxq = P.rxq
  txbuf : P.txbuf = none → P'.txbuf = none
  notReceiving : P.rxneie = false → P.rxbuf = none → P.uncaptured → P'.rxbuf = none ∧ P'.uncaptured
  noOverrun : P.txbuf = none → P.noOverrun → P'.noOverrun

theorem Port.complete_busFrame {P : Port} {f : Shift} (m : Byte) (hf : P.shift = some f) :
    P.BusFrame (P.complete f m) := by
  have hs : (P.complete f m).uncaptured := Port.uncaptured_of_shift_none rfl
  rw [Port.complete_eq] at hs ⊢
  refine ⟨rfl, rfl, rfl, rfl, rfl, rfl, id, fun _ hb hu => ⟨?_, hs⟩, fun _ _ => hs.noOverrun⟩
  simp [hu f hf, hb]

theorem Port.load_busFrame {P : Port} {b : Byte} (hb : P.txbuf = some b) : P.BusFrame (P.load b) where
  taken := rfl
  txeie := rfl
  rxneie := rfl
  errie := rfl
  txq := rfl
  rxq := rfl
  txbuf _ := rfl
  notReceiving hr hrx _ := ⟨hrx, fun _ hf => by cases hf; exact hr⟩
  noOverrun h := nomatch hb.symm.trans h

theorem Port.fillFrame_busFrame {P : Port} (hr : P.rxneie = true) (hb : P.rxbuf = none) : P.BusFrame P.fillFrame where
  taken := rfl
  txeie := rfl
  rxneie := rfl
  errie := rfl
  txq := rfl
  rxq := rfl
  txbuf := id
  notReceiving h := nomatch hr.symm.trans h
  noOverrun _ _ _ _ _ := hb

theorem Port.periphStep_busFrame {P P' : Port} {m : Byte} (h : P.periphStep m = some P') : P.BusFrame P' := by
  rcases Port.periphStep_cases h with ⟨f, hf, rfl⟩ | ⟨b, -, hb, rfl⟩ | ⟨-, -, hr, hb, rfl⟩
  · exact Port.complete_busFrame m hf
  · exact Port.load_busFrame hb
  · exact Port.fillFrame_busFrame hr hb

theorem Port.modeFault_busFrame (P : Port) : P.BusFrame P.modeFault := by
  have hs : P.modeFault.uncaptured := Port.uncaptured_of_shift_none P.modeFault_shift
  rw [Port.modeFault, Port.abortFrame_eq] at hs ⊢
  exact ⟨rfl, rfl, rfl, rfl, rfl, rfl, id, fun _ hb _ => ⟨hb, hs⟩, fun _ _ => hs.noOverrun⟩

theorem Port.busError_busFrame (P : Port) : P.BusFrame P.busError :=
  ⟨rfl, rfl, rfl, rfl, rfl, rfl, id, fun _ hb hu => ⟨hb, hu⟩, fun _ hn => hn⟩

section
variable {P P' : Port} (k : P.BusFrame P')
include k

theorem Port.BusFrame.causesOff (h : P.causesOff) : P'.causesOff :=
  ⟨k.txeie.trans h.1, k.rxneie.trans h.2.1, k.errie.trans h.2.2⟩

theorem Port.BusFrame.buffersEmpty (hc : P.causesOff) (h : P.buffersEmpty) : P'.buffersEmpty :=
  ⟨k.txbuf h.1, k.notReceiving hc.2.1 h.2.1 h.2.2⟩

theorem Port.BusFrame.quiescent (h : P.quiescent) : P'.quiescent := by
  obtain ⟨ht, hc, hq, hr, hb⟩ := h
  exact ⟨k.taken.trans ht, k.causesOff hc, k.txq.trans hq, k.rxq.trans hr, k.buffersEmpty hc hb⟩

theorem Port.BusFrame.txArmed (h : P.txArmed) : P'.txArmed := by
  obtain ⟨ht, htx, hrx, he, hr, hb, hu⟩ := h
  exact ⟨k.taken.trans ht, k.txeie.trans htx, k.rxneie.trans hrx, k.errie.trans he, k.rxq.trans hr,
    k.notReceiving hrx hb hu⟩

theorem Port.BusFrame.rxArmed (h : P.rxArmed) : P'.rxArmed := by
  obtain ⟨ht, htx, hrx, he, hq, hb, hn⟩ := h
  exact ⟨k.taken.trans ht, k.txeie.trans htx, k.rxneie.trans hrx, k.errie.trans he, k.txq.trans hq, k.txbuf hb,
    k.noOverrun hb hn⟩

theorem Port.BusFrame.rxComplete (h : P.rxComplete) : P'.rxComplete := by
  obtain ⟨ht, hc, hq, hb⟩ := h
  exact ⟨k.taken.trans ht, k.causesOff hc, k.txq.trans hq, k.buffersEmpty hc hb⟩

/-- A move of the shift engine or of ENV leaves the port as every phase needs it. -/
theorem Port.BusFrame.atPhase {ph : Phase} (h : P.atPhase ph) : P'.atPhase ph := by
  cases ph with
  | ex1 | ex5 => exact k.quiescent h
  | tx t =>
    cases t with
    | tx1 => exact k.quiescent h
    | tx2 | tx3 | txf1 =>
      obtain ⟨ht, hc, hr, hb⟩ := h
      exact ⟨k.taken.trans ht, k.causesOff hc, k.rxq.trans hr, k.buffersEmpty hc hb⟩
    | tx4 | tx5 | txa1 => exact h.imp k.txArmed k.quiescent
    | tx6 | txf2 =>
      obtain ⟨ht, hc, hq, hr, hb⟩ := h
      exact ⟨k.taken.trans ht, k.causesOff hc, k.txq.trans hq, k.rxq.trans hr, k.buffersEmpty hc hb⟩
    | txa2 =>
      obtain ⟨hc, hr, hb, hu⟩ := h
      exact ⟨k.causesOff hc, k.rxq.trans hr, k.notReceiving hc.2.1 hb hu⟩
    | txa3 =>
      obtain ⟨hc, hr, hb⟩ := h
      exact ⟨k.causesOff hc, k.rxq.trans hr, k.buffersEmpty hc hb⟩
    | txa4 =>
      obtain ⟨hc, hq, hr, hb⟩ := h
      exact ⟨k.causesOff hc, k.txq.trans hq, k.rxq.trans hr, k.buffersEmpty hc hb⟩
  | rx r =>
    cases r with
    | rx1 => exact k.quiescent h
    | rx2 | rx3 | rx7 =>
      obtain ⟨ht, hc, hq, hr, hb⟩ := h
      exact ⟨k.taken.trans ht, k.causesOff hc, k.txq.trans hq, k.rxq.trans hr, k.buffersEmpty hc hb⟩
    | rx4 | rx5 | rxa1 => exact h.imp k.rxArmed k.rxComplete
    | rx6 =>
      obtain ⟨ht, hc, hq, hb⟩ := h
      exact ⟨k.taken.trans ht, k.causesOff hc, k.txq.trans hq, k.buffersEmpty hc hb⟩
    | rxa2 =>
      obtain ⟨hc, hq, hb, hn⟩ := h
      exact ⟨k.causesOff hc, k.txq.trans hq, k.txbuf hb, k.noOverrun hb hn⟩
    | rxa3 =>
      obtain ⟨hc, hq, hb⟩ := h
      exact ⟨k.causesOff hc, k.txq.trans hq, k.buffersEmpty hc hb⟩
    | rxa4 =>
      obtain ⟨hc, hq, hr, hb⟩ := h
      exact ⟨k.causesOff hc, k.txq.trans hq, k.rxq.trans hr, k.buffersEmpty hc hb⟩

end

/-! ### What a firing does to a port at a phase -/

/-- A cause vector selects a branch only when that branch's own bit is set. -/
theorem decodeCause_bits {p : PortId} {i : Instr} {other modf rxne txe : Bool}
    (h : decodeCause p (BitVec.ofBool other ++ BitVec.ofBool modf ++ BitVec.ofBool rxne ++ BitVec.ofBool txe) =
      some i) :
    (i = .isrTxe p ∧ txe = true) ∨ (i = .isrRxne p ∧ rxne = true) ∨ (i = .isrModf p ∧ modf = true) ∨
      (i = .isrNone p ∧ other = true) := by
  cases txe with
  | true =>
    have e : decodeCause p (BitVec.ofBool other ++ BitVec.ofBool modf ++ BitVec.ofBool rxne ++ BitVec.ofBool true) =
        some (.isrTxe p) := by cases other <;> cases modf <;> cases rxne <;> rfl
    exact .inl ⟨Option.some.inj (h.symm.trans e), rfl⟩
  | false =>
    cases rxne with
    | true =>
      have e : decodeCause p (BitVec.ofBool other ++ BitVec.ofBool modf ++ BitVec.ofBool true ++ BitVec.ofBool false) =
          some (.isrRxne p) := by cases other <;> cases modf <;> rfl
      exact .inr (.inl ⟨Option.some.inj (h.symm.trans e), rfl⟩)
    | false => cases modf <;> cases other <;> cases h <;> simp

/-- The branch a port's causes select is one whose cause is enabled. -/
theorem decodeCause_enabled {p : PortId} {i : Instr} {P : Port} (h : decodeCause p P.cv = some i) :
    (i = .isrTxe p ∧ P.txeie = true) ∨ (i = .isrRxne p ∧ P.rxneie = true) ∨
      ((i = .isrModf p ∨ i = .isrNone p) ∧ P.errie = true) := by
  rcases decodeCause_bits h with ⟨rfl, hb⟩ | ⟨rfl, hb⟩ | ⟨rfl, hb⟩ | ⟨rfl, hb⟩ <;> rw [Bool.and_eq_true] at hb
  · exact .inl ⟨rfl, hb.2⟩
  · exact .inr (.inl ⟨rfl, hb.2⟩)
  · exact .inr (.inr ⟨.inl rfl, hb.2⟩)
  · exact .inr (.inr ⟨.inr rfl, hb.2⟩)

/-- With its causes disabled a port's ISR does not fire. -/
theorem Port.causesOff.decodeCause_eq_none {P : Port} (h : P.causesOff) (p : PortId) : decodeCause p P.cv = none := by
  obtain ⟨htx, hrx, he⟩ := h
  cases hd : decodeCause p P.cv with
  | none => rfl
  | some i =>
    rcases decodeCause_enabled hd with ⟨-, hb⟩ | ⟨-, hb⟩ | ⟨-, hb⟩
    · cases htx.symm.trans hb
    · cases hrx.symm.trans hb
    · cases he.symm.trans hb

theorem Port.completeTransfer_transmit_quiescent {P : Port} (hrx : P.rxneie = false) (hq : P.txq = [])
    (hr : P.rxq = []) : (P.completeTransfer .transmit).quiescent := by
  refine ⟨rfl, ?_, hq, hr, Port.stop_buffersEmpty _⟩
  simp [Port.causesOff, Port.completeTransfer, IrqSet.transmit, hrx]

theorem Port.completeTransfer_receive_rxComplete {P : Port} (htx : P.txeie = false) (hq : P.txq = []) :
    (P.completeTransfer .receive).rxComplete := by
  refine ⟨rfl, ?_, hq, Port.stop_buffersEmpty _⟩
  simp [Port.causesOff, Port.completeTransfer, IrqSet.receive, htx]

/-- A firing leaves an armed TRANSMIT armed or completes it. -/
theorem Port.txArmed.fires {params : Params} {p : PortId} {i : Instr} {P P' : Port} (h : P.txArmed)
    (hd : decodeCause p P.cv = some i) (hh : handlerStep params i P = some P') : P'.txArmed ∨ P'.quiescent := by
  obtain ⟨ht, htx, hrx, he, hr, hb, hu⟩ := id h
  rcases decodeCause_enabled hd with ⟨rfl, -⟩ | ⟨-, hrx'⟩ | ⟨rfl | rfl, -⟩
  · cases hh
    cases hq : P.txq with
    | nil =>
      right
      rw [Port.isrTxe, hq]
      exact Port.completeTransfer_transmit_quiescent hrx hq hr
    | cons b q =>
      left
      rw [Port.isrTxe, hq]
      exact ⟨ht, htx, hrx, he, hr, hb, hu⟩
  · cases hrx.symm.trans hrx'
  · cases hh
    exact .inl ⟨ht, htx, hrx, he, hr, hb, hu⟩
  · cases hh
    exact .inl h

/-- Counting a received byte writes RXCNT and RXQ, and may complete the RECEIVE. -/
theorem Port.countReceived_cases (P : Port) (params : Params) (b : Byte) : ∃ n q,
    P.countReceived params b = { P with rxcnt := n, rxq := q } ∨
      P.countReceived params b = { P with rxcnt := n, rxq := q }.completeTransfer .receive := by
  unfold Port.countReceived
  simp only
  split
  · exact ⟨_, _, .inl rfl⟩
  · split
    · exact ⟨_, _, .inr rfl⟩
    · exact ⟨_, P.rxq, .inr rfl⟩

/-- A firing leaves an armed RECEIVE armed or completes it. -/
theorem Port.rxArmed.fires {params : Params} {p : PortId} {i : Instr} {P P' : Port} (h : P.rxArmed)
    (hd : decodeCause p P.cv = some i) (hh : handlerStep params i P = some P') : P'.rxArmed ∨ P'.rxComplete := by
  obtain ⟨ht, htx, hrx, he, hq, hb, hn⟩ := id h
  rcases handlerStep_cases hh with ⟨⟨q, rfl⟩, -⟩ | ⟨-, b, -, rfl⟩ | ⟨-, rfl⟩ | ⟨-, rfl⟩
  · rcases decodeCause_enabled hd with ⟨-, htx'⟩ | ⟨e, -⟩ | ⟨e | e, -⟩
    · cases htx.symm.trans htx'
    all_goals cases e
  · obtain ⟨n, q, e | e⟩ := Port.countReceived_cases { P with rxbuf := none } params b <;> rw [e]
    · exact .inl ⟨ht, htx, hrx, he, hq, hb, fun _ _ _ => rfl⟩
    · exact .inr (Port.completeTransfer_receive_rxComplete htx hq)
  · exact .inl ⟨ht, htx, hrx, he, hq, hb, hn⟩
  · exact .inl h

/-- At every phase either no cause is enabled, or a transfer is armed and its completion fits the phase too. -/
theorem Port.atPhase_armed {P : Port} {ph : Phase} (h : P.atPhase ph) : P.causesOff ∨
    (P.txArmed ∧ ∀ Q : Port, Q.txArmed ∨ Q.quiescent → Q.atPhase ph) ∨
    (P.rxArmed ∧ ∀ Q : Port, Q.rxArmed ∨ Q.rxComplete → Q.atPhase ph) := by
  have quiet : P.quiescent → P.causesOff := fun hq => hq.2.1
  cases ph with
  | ex1 | ex5 => exact .inl (quiet h)
  | tx t =>
    cases t with
    | tx4 | tx5 | txa1 => exact h.elim (fun ha => .inr (.inl ⟨ha, fun _ => id⟩)) fun hq => .inl (quiet hq)
    | txa2 | txa3 | txa4 => exact .inl h.1
    | _ => exact .inl h.2.1
  | rx r =>
    cases r with
    | rx4 | rx5 | rxa1 => exact h.elim (fun ha => .inr (.inr ⟨ha, fun _ => id⟩)) fun hq => .inl hq.2.1
    | rxa2 | rxa3 | rxa4 => exact .inl h.1
    | _ => exact .inl h.2.1

/-- A firing leaves the port as every phase needs it. -/
theorem Port.atPhase.fires {params : Params} {p : PortId} {i : Instr} {P P' : Port} {ph : Phase} (h : P.atPhase ph)
    (hd : decodeCause p P.cv = some i) (hh : handlerStep params i P = some P') : P'.atPhase ph := by
  rcases Port.atPhase_armed h with hc | ⟨ha, hk⟩ | ⟨ha, hk⟩
  · cases (hc.decodeCause_eq_none p).symm.trans hd
  · exact hk P' (ha.fires hd hh)
  · exact hk P' (ha.fires hd hh)

/-! ### What its user's own phases do to the port -/

/-- The phase that a flow leads to, if the transfer goes on. -/
def Flow.nextPhase : Flow → Option Phase
  | .goto ph _ => some ph
  | .ret _ => none

/-- Each phase of TRANSMIT leaves the port as the next one needs it, and quiescent at the end. -/
theorem txPhase_fits (qcap : Nat) (t : TxPhase) (l : Locals) {P : Port} (h : P.atPhase (.tx t)) :
    (txPhase qcap t l P).1.fitsUser (txPhase qcap t l P).2.nextPhase := by
  cases t with
  | tx1 =>
    obtain ⟨ht, hc, hq, hr, hb⟩ := h
    simp only [txPhase, Port.lockTake_available ht, Flow.nextPhase]
    split <;> exact ⟨rfl, hc, hr, hb⟩
  | tx2 =>
    cases hl : l.remaining with
    | nil =>
      simp only [txPhase, hl]
      exact h
    | cons b rest =>
      obtain ⟨ht, hc, hr, hb⟩ := id h
      simp only [txPhase, hl, Port.pushTx_eq]
      by_cases hroom : P.txq.length < qcap
      · simp only [hroom, if_true, Flow.nextPhase]
        split <;> exact ⟨ht, hc, hr, hb⟩
      · simp only [hroom, if_false]
        exact h
  | tx3 =>
    obtain ⟨ht, ⟨htx, hrx, he⟩, hr, hb, hrb, hu⟩ := h
    exact .inl ⟨ht, by simp [txPhase, IrqSet.transmit], by simp [txPhase, IrqSet.transmit, hrx],
      by simp [txPhase, IrqSet.transmit], hr, hrb, hu⟩
  | tx4 => exact h.imp id id
  | tx5 =>
    rcases id h with ⟨ht, -⟩ | ⟨ht, hc, hq, hr, hb⟩
    · simp only [txPhase, Port.lockTake_taken ht]
      exact h
    · simp only [txPhase, Port.lockTake_available ht]
      exact ⟨rfl, hc, hq, hr, hb⟩
  | tx6 | txf2 =>
    obtain ⟨-, hc, hq, hr, hb⟩ := h
    exact ⟨rfl, hc, hq, hr, hb⟩
  | txf1 =>
    obtain ⟨ht, hc, hr, hb⟩ := h
    exact ⟨ht, hc, rfl, hr, hb⟩
  | txa1 =>
    rcases h with ⟨-, -, hrx, -, hr, hb, hu⟩ | ⟨-, ⟨htx, hrx, he⟩, -, hr, -, hb, hu⟩
    · exact ⟨by simp [Port.causesOff, txPhase, IrqSet.transmit, hrx], hr, hb, hu⟩
    · exact ⟨by simp [Port.causesOff, txPhase, IrqSet.transmit, hrx], hr, hb, hu⟩
  | txa2 =>
    obtain ⟨hc, hr, -, -⟩ := h
    exact ⟨hc, hr, P.stop_buffersEmpty⟩
  | txa3 =>
    obtain ⟨hc, hr, hb⟩ := h
    exact ⟨hc, rfl, hr, hb⟩
  | txa4 =>
    obtain ⟨hc, hq, hr, hb⟩ := h
    exact ⟨rfl, hc, hq, hr, hb⟩

/-- Each phase of RECEIVE leaves the port as the next one needs it, and quiescent at the end. -/
theorem rxPhase_fits (n : BitVec 16) (f : Byte) (r : RxPhase) (l : Locals) {P : Port} (h : P.atPhase (.rx r)) :
    (rxPhase n f r l P).1.fitsUser (rxPhase n f r l P).2.nextPhase := by
  cases r with
  | rx1 =>
    obtain ⟨ht, hc, hq, hr, hb⟩ := h
    simp only [rxPhase, Port.lockTake_available ht]
    exact ⟨rfl, hc, hq, hr, hb⟩
  | rx2 => exact h
  | rx3 =>
    obtain ⟨ht, ⟨htx, hrx, he⟩, hq, hr, hb, hrb, hu⟩ := h
    exact .inl ⟨ht, by simp [rxPhase, IrqSet.receive, htx], by simp [rxPhase, IrqSet.receive],
      by simp [rxPhase, IrqSet.receive], hq, hb, hu.noOverrun⟩
  | rx4 => exact h.imp id id
  | rx5 =>
    rcases id h with ⟨ht, -⟩ | ⟨ht, hc, hq, hb⟩
    · simp only [rxPhase, Port.lockTake_taken ht]
      exact h
    · simp only [rxPhase, Port.lockTake_available ht]
      exact ⟨rfl, hc, hq, hb⟩
  | rx6 =>
    obtain ⟨ht, hc, hq, hb⟩ := h
    exact ⟨ht, hc, hq, rfl, hb⟩
  | rx7 =>
    obtain ⟨-, hc, hq, hr, hb⟩ := h
    exact ⟨rfl, hc, hq, hr, hb⟩
  | rxa1 =>
    rcases h with ⟨-, htx, -, -, hq, hb, hn⟩ | ⟨-, ⟨htx, hrx, he⟩, hq, hb, hrb, hu⟩
    · exact ⟨by simp [Port.causesOff, rxPhase, IrqSet.receive, htx], hq, hb, hn⟩
    · exact ⟨by simp [Port.causesOff, rxPhase, IrqSet.receive, htx], hq, hb, hu.noOverrun⟩
  | rxa2 =>
    obtain ⟨hc, hq, -, -⟩ := h
    exact ⟨hc, hq, P.stop_buffersEmpty⟩
  | rxa3 =>
    obtain ⟨hc, hq, hb⟩ := h
    exact ⟨hc, hq, rfl, hb⟩
  | rxa4 =>
    obtain ⟨hc, hq, hr, hb⟩ := h
    exact ⟨rfl, hc, hq, hr, hb⟩

/-- Between its inner transfers EXCHANGE needs the port quiescent, as they leave it. -/
theorem exchangeAfterTx_fits {P : Port} {flow : Flow} (l : Locals) (h : P.fitsUser flow.nextPhase) :
    P.fitsUser (exchangeAfterTx l flow).nextPhase := by
  cases flow with
  | goto ph l' => exact h
  | ret r =>
    simp only [exchangeAfterTx]
    split <;> exact h

theorem exchangeAfterRx_fits {P : Port} {flow : Flow} (l : Locals) (h : P.fitsUser flow.nextPhase) :
    P.fitsUser (exchangeAfterRx l flow).nextPhase := by
  cases flow with
  | goto ph l' => exact h
  | ret r => exact h

theorem exPhase_fits (qcap : Nat) (n : BitVec 16) (ph : Phase) (l : Locals) {P : Port} (h : P.atPhase ph) :
    (exPhase qcap n ph l P).1.fitsUser (exPhase qcap n ph l P).2.nextPhase := by
  cases ph with
  | tx t => exact exchangeAfterTx_fits l (txPhase_fits qcap t l h)
  | rx r => exact exchangeAfterRx_fits l (rxPhase_fits n 0 r l h)
  | ex1 | ex5 => exact h

theorem phaseStep_fits (qcap : Nat) {i : Instr} {ph : Phase} (l : Locals) {P : Port} (hf : ph.fits i = true)
    (h : P.atPhase ph) :
    (phaseStep qcap i ph l P).1.fitsUser (phaseStep qcap i ph l P).2.nextPhase := by
  refine phaseStep_cases (motive := fun r => r.1.fitsUser r.2.nextPhase) qcap l P hf ?_ ?_ ?_
  · rintro t rfl
    exact txPhase_fits qcap t l h
  · rintro r n f rfl
    exact rxPhase_fits n f r l h
  · exact fun n => exPhase_fits qcap n ph l h

/-- Every transfer starts in a phase that needs the port quiescent. -/
theorem firstPhase_fits (i : Instr) {P : Port} (h : P.quiescent) : P.fitsUser (some (firstPhase i).1) := by
  cases i <;> exact h

/-- A command of one phase leaves a quiescent port quiescent. -/
theorem IssueEffect.quiescent {params : Params} {i : Instr} {P P' : Port} {r : CommandResult}
    (he : IssueEffect params i P P' r) (h : P.quiescent) : P'.quiescent := by
  cases he with
  | configure => exact ⟨rfl, by simp [Port.causesOff, Port.configure, IrqSet.all], rfl, rfl, rfl, rfl, nofun⟩
  | setCs | getCs => exact h

/-! ### The one-user invariant of every step -/

/-- After a step of its command the caller is at a phase `o` of the named port or at none, and at none of any other; the
port fits `o` when it fitted the phase before. -/
theorem CommandEffect.fits {i : Instr} {u t : State} {C : Caller} (he : CommandEffect i u C t)
    (hC : u.callers[u.actor]? = some C) (hctl : C.ctl = .idle ∨ ∃ ph l, C.ctl = .busy i ph l) :
    ∃ o : Option Phase, (∀ q, t.phaseOn q u.actor = if i.port.toNat = q then o else none) ∧
      ∀ P P', u.hasPort i.port P → t.hasPort i.port P' → P.fitsUser (u.phaseOn i.port.toNat u.actor) →
        P'.fitsUser o := by
  cases he with
  | rejects hc =>
    refine ⟨none, fun q => ?_, fun P P' hP hP' h => ?_⟩
    · rw [State.phaseOn_idle q (callers_modify_self _ hC) rfl, ite_self]
    · cases hP.symm.trans hP'
      rwa [State.phaseOn_idle _ hC hc] at h
  | faults hc kind =>
    refine ⟨none, fun q => ?_, fun P P' hP hP' h => ?_⟩
    · rw [State.phaseOn_stopped q (callers_modify_self _ hC) rfl, ite_self]
    · cases hP.symm.trans hP'
      rwa [State.phaseOn_idle _ hC hc] at h
  | completes hc Q X r hQ hie =>
    refine ⟨none, fun q => ?_, fun P P' hP hP' h => ?_⟩
    · rw [State.phaseOn_idle q (callers_modify_self _ hC) rfl, ite_self]
    · cases hQ.symm.trans hP
      cases (State.ports_setPort_self X hQ).symm.trans hP'
      rw [State.phaseOn_idle _ hC hc] at h
      exact hie.quiescent h
  | starts hc Q hQ hcfg ht =>
    refine ⟨some (firstPhase i).1, fun q => ?_, fun P P' hP hP' h => ?_⟩
    · rw [State.phaseOn_busy q (callers_modify_self _ hC) rfl]
    · cases hP.symm.trans hP'
      rw [State.phaseOn_idle _ hC hc] at h
      exact firstPhase_fits i h
  | phase ph l hc Q hQ ht hf =>
    refine ⟨(phaseStep u.params.qcap i ph l Q).2.nextPhase, fun q => ?_, fun P P' hP hP' h => ?_⟩
    · cases (phaseStep u.params.qcap i ph l Q).2 with
      | goto ph' l' => exact State.phaseOn_busy q (callers_modify_self _ hC) rfl
      | ret r =>
        rw [Flow.nextPhase, ite_self]
        exact State.phaseOn_idle q (callers_modify_self _ hC) rfl
    · cases hQ.symm.trans hP
      rw [State.hasPort, State.follow_ports] at hP'
      cases (State.ports_setPort_self _ hQ).symm.trans hP'
      rw [State.phaseOn_busy _ hC hc, if_pos rfl] at h
      exact phaseStep_fits _ l hf h
  | refuses cmd ph l hc hne =>
    rcases hctl with hc' | ⟨ph', l', hc'⟩
    · cases hc.symm.trans hc'
    · cases hc.symm.trans hc'
      exact absurd rfl hne

/-- The one-user invariant reads the port and where the callers are. -/
theorem State.SoleInv.congr {s t : State} {p c : Nat} (h : s.SoleInv p c) (hports : t.ports[p]? = s.ports[p]?)
    (hphase : ∀ c', t.phaseOn p c' = s.phaseOn p c') : t.SoleInv p c := by
  rw [State.soleInv_iff] at h ⊢
  rw [hports]
  exact ⟨fun c' hne => (hphase c').trans (h.1 c' hne), fun P hP => hphase c ▸ h.2 P hP⟩

/-- Words given to a caller do not move it. -/
theorem State.phaseOn_setStream (s : State) (c : Nat) (ws : List Word) (p c' : Nat) :
    (s.setStream c ws).phaseOn p c' = s.phaseOn p c' := by
  by_cases hc : c' = c
  · subst hc
    cases hC : s.callers[c']? with
    | none => rw [State.phaseOn_missing p hC, State.phaseOn_missing p (by simp [hC])]
    | some C => simp only [State.phaseOn, hC, State.setStream_callers, callers_modify_self _ hC]
  · exact State.phaseOn_congr p (callers_modify_ne _ _ hc)

/-- A command's step keeps the one-user invariant of `p` and `c`, when it is `c`'s if it names `p`. -/
theorem CommandEffect.soleInv {i : Instr} {u t : State} {C : Caller} {p c : Nat} (he : CommandEffect i u C t)
    (hk : u.ChangesOnly i.port.toNat u.actor t) (hC : u.callers[u.actor]? = some C)
    (hctl : C.ctl = .idle ∨ ∃ ph l, C.ctl = .busy i ph l) (hown : i.port.toNat = p → u.actor = c)
    (h : u.SoleInv p c) : t.SoleInv p c := by
  obtain ⟨o, hphase, hfit⟩ := he.fits hC hctl
  by_cases hp : i.port.toNat = p
  · subst hp
    obtain rfl := hown rfl
    rw [State.soleInv_iff] at h ⊢
    refine ⟨fun c' hne => ?_, fun P' hP' => ?_⟩
    · rw [State.phaseOn_congr _ (hk.otherCallers c' hne)]
      exact h.1 c' hne
    · rw [hphase, if_pos rfl]
      have hlt : i.port.toNat < u.ports.length := hk.portCount ▸ (List.getElem?_eq_some_iff.mp hP').1
      have hP := List.getElem?_eq_getElem hlt
      exact hfit _ P' hP hP' (h.2 _ hP)
  · refine h.congr (hk.otherPorts p (Ne.symm hp)) fun c' => ?_
    by_cases hc' : c' = u.actor
    · subst hc'
      have hbefore : u.phaseOn p u.actor = none := by
        rcases hctl with hc | ⟨ph, l, hc⟩
        · exact State.phaseOn_idle p hC hc
        · rw [State.phaseOn_busy p hC hc, if_neg hp]
      rw [hphase, if_neg hp, hbefore]
    · exact State.phaseOn_congr p (hk.otherCallers c' hc')

/-- A write of one port that leaves it as every phase needs it, by an agent that is no caller. -/
theorem State.SoleInv.setPort {s : State} {p c q : Nat} {Q X : Port} (h : s.SoleInv p c) (hQ : s.ports[q]? = some Q)
    (hX : ∀ ph, Q.atPhase ph → X.atPhase ph) : (s.takeMove.setPort q X).SoleInv p c := by
  have hphase (c' : Nat) : (s.takeMove.setPort q X).phaseOn p c' = s.phaseOn p c' :=
    State.phaseOn_congr p (by simp)
  by_cases hp : p = q
  · subst hp
    have hX' : (s.takeMove.setPort p X).ports[p]? = some X := State.ports_setPort_self X (by simpa using hQ)
    rw [State.soleInv_iff] at h ⊢
    refine ⟨fun c' hne => (hphase c').trans (h.1 c' hne), fun P' hP' => ?_⟩
    cases hX'.symm.trans hP'
    rw [hphase]
    exact hX _ (h.2 Q hQ)
  · exact h.congr (by rw [State.ports_setPort_ne _ _ hp, s.takeMove_ports]) hphase

/-- Every step keeps the one-user invariant while no other caller issues on the port. -/
theorem StepEffect.soleInv {s t : State} {p c : Nat} (h : StepEffect s t) (hb : s.BusyOnCommands)
    (hs : s.SoleInv p c) (hu : s.soleUser p c) : t.SoleInv p c := by
  cases h with
  | outOfRange => exact hs.congr rfl fun _ => rfl
  | skips => exact hs.congr (by simp) fun c' => State.phaseOn_congr p (by simp)
  | misuse => exact hs.congr (by simp) fun c' => State.phaseOn_congr p (by simp)
  | issues k C i rest t hm hC hc hd hon hx =>
    have hi := decodeCommand_isCommand hd
    have hC' : ((s.takeMove.setActor k).setStream k rest).callers[k]? = some { C with stream := rest } :=
      callers_modify_self _ (by simpa using hC)
    obtain ⟨D, hD, he⟩ := exec_command hi hx
    obtain rfl : D = { C with stream := rest } := Option.some.inj (hD.symm.trans hC')
    refine he.soleInv (exec_command_changesOnly hi hx) hD (.inl hc) (fun e => hu k (e ▸ hon)) ?_
    refine hs.congr (by simp) fun c' => ?_
    rw [State.phaseOn_setStream]
    exact State.phaseOn_congr p (by simp)
  | illegal k C hC hc =>
    have hC' : (s.takeMove.setActor k).callers[k]? = some C := by simpa using hC
    refine hs.congr (by simp) fun c' => ?_
    by_cases hk : c' = k
    · subst hk
      rw [State.phaseOn_idle p hC hc]
      exact State.phaseOn_stopped p (callers_modify_self _ hC') rfl
    · refine State.phaseOn_congr p ?_
      rw [State.raiseFault_callers, callers_modify_ne _ _ hk]
      simp
  | continues k C i ph l t hm hC hc hx =>
    have hi : i.isCommand = true := hb k C i ph l hC hc
    have hC' : (s.takeMove.setActor k).callers[k]? = some C := by simpa using hC
    obtain ⟨D, hD, he⟩ := exec_command hi hx
    obtain rfl : D = C := Option.some.inj (hD.symm.trans hC')
    refine he.soleInv (exec_command_changesOnly hi hx) hD (.inr ⟨ph, l, hc⟩) (fun e => ?_) ?_
    · by_contra hne
      have := hs.othersAway k hne
      rw [State.phaseOn_busy p hC hc, if_pos e] at this
      cases this
    · exact hs.congr (by simp) fun c' => State.phaseOn_congr p (by simp)
  | fires q Q X i hm hQ hd hh => exact hs.setPort hQ fun ph ha => Port.atPhase.fires ha hd hh
  | shifts q m Q X hm hQ hx => exact hs.setPort hQ fun ph ha => (Port.periphStep_busFrame hx).atPhase ha
  | modeFault q Q hm hbe hQ => exact hs.setPort hQ fun ph ha => Q.modeFault_busFrame.atPhase ha
  | busError q Q hbe hQ => exact hs.setPort hQ fun ph ha => Q.busError_busFrame.atPhase ha

/-- Settles O49: every move leaves the port as its user's phase needs it, and only its user's own commands move the
phase. -/
theorem soleUserInvariantKept : Obligations.SoleUserInvariantKept := by
  intro s t p c hinv hs hu h
  exact (step_effect h).soleInv hinv.busyOnCommands hs hu

/-! ### Runs with one user (`70_reset_and_hazards.md` rule R430) -/

/-- After a command's step its caller is Busy with that command, or with what it was Busy with. -/
theorem CommandEffect.busy_cases {i j : Instr} {u t : State} {C C' : Caller} {ph : Phase} {l : Locals}
    (he : CommandEffect i u C t) (hC : u.callers[u.actor]? = some C) (hC' : t.callers[u.actor]? = some C')
    (hc' : C'.ctl = .busy j ph l) : j = i ∨ C.ctl = .busy j ph l := by
  cases he with
  | rejects | faults | completes =>
    cases (callers_modify_self _ hC).symm.trans hC'
    cases hc'
  | starts =>
    cases (callers_modify_self _ hC).symm.trans hC'
    cases hc'
    exact .inl rfl
  | phase ph' l' hc Q hQ ht hf =>
    cases hflow : (phaseStep u.params.qcap i ph' l' Q).2 with
    | goto ph'' l'' =>
      rw [hflow] at hC'
      cases (callers_modify_self _ hC).symm.trans hC'
      cases hc'
      exact .inl rfl
    | ret r =>
      rw [hflow] at hC'
      cases (callers_modify_self _ hC).symm.trans hC'
      cases hc'
  | refuses =>
    cases hC.symm.trans hC'
    exact .inr hc'

theorem exec_busyOnCommands {u t : State} {i : Instr} (h : u.BusyOnCommands) (hx : exec i u = .next t) :
    t.BusyOnCommands := by
  cases hi : i.isCommand with
  | true =>
    intro c C' j ph l hC' hc'
    obtain ⟨C, hC, he⟩ := exec_command hi hx
    by_cases hk : c = u.actor
    · subst hk
      rcases he.busy_cases hC hC' hc' with rfl | hc
      · exact hi
      · exact h _ C j ph l hC hc
    · rw [(exec_command_changesOnly hi hx).otherCallers c hk] at hC'
      exact h c C' j ph l hC' hc'
  | false =>
    obtain ⟨Q, X, -, -, rfl⟩ := exec_handler hi hx
    exact h

/-- A change of one caller's record that makes no caller Busy. -/
theorem State.BusyOnCommands.modify {s t : State} {k : Nat} {f : Caller → Caller} (h : s.BusyOnCommands)
    (ht : t.callers = s.callers.modify k f)
    (hf : ∀ C i ph l, (f C).ctl = .busy i ph l → C.ctl = .busy i ph l) : t.BusyOnCommands := by
  intro c C' i ph l hC' hc'
  rw [ht, List.getElem?_modify] at hC'
  obtain ⟨C, hC, rfl⟩ := Option.map_eq_some_iff.mp hC'
  refine h c C i ph l hC ?_
  split at hc'
  · exact hf C i ph l hc'
  · exact hc'

theorem StepEffect.busyOnCommands {s t : State} (h : StepEffect s t) (hb : s.BusyOnCommands) : t.BusyOnCommands := by
  have hmove : s.takeMove.BusyOnCommands := by
    rw [State.BusyOnCommands, s.takeMove_callers]
    exact hb
  cases h with
  | outOfRange => exact hb
  | skips | misuse | fires | shifts | modeFault | busError => exact hmove
  | issues c C i rest t hm hC hc hd hon hx =>
    have hu : ((s.takeMove.setActor c).setStream c rest).BusyOnCommands :=
      State.BusyOnCommands.modify (f := fun C => { C with stream := rest }) hmove rfl fun _ _ _ _ => id
    exact exec_busyOnCommands hu hx
  | illegal c C hC hc => exact hmove.modify rfl fun _ _ _ _ hc' => nomatch hc'
  | continues c C i ph l t hm hC hc hx => exact exec_busyOnCommands (u := s.takeMove.setActor c) hmove hx

/-- Along a run with one user of a port the one-user invariant holds throughout. -/
theorem run_soleInv {run : Nat → State} {n p c : Nat} (hrun : isRunTo run n) (hb : (run 0).BusyOnCommands)
    (hs : (run 0).SoleInv p c) (hu : ∀ k, k < n → (run k).soleUser p c) :
    ∀ k, k ≤ n → (run k).BusyOnCommands ∧ (run k).SoleInv p c := by
  intro k hk
  induction k with
  | zero => exact ⟨hb, hs⟩
  | succ k ih =>
    obtain ⟨hbk, hsk⟩ := ih (by omega)
    have he := step_effect (hrun k hk)
    exact ⟨he.busyOnCommands hbk, he.soleInv hbk hsk (hu k hk)⟩

/-- At no phase of its one user does a port have an overrun due. -/
theorem Port.atPhase_noOverrun {P : Port} {ph : Phase} (h : P.atPhase ph) : P.noOverrun := by
  have quiet : P.quiescent → P.noOverrun := fun ⟨_, _, _, _, _, _, hu⟩ => hu.noOverrun
  have txArmed : P.txArmed → P.noOverrun := fun ⟨_, _, _, _, _, _, hu⟩ => hu.noOverrun
  have rxArmed : P.rxArmed → P.noOverrun := fun ⟨_, _, _, _, _, _, hn⟩ => hn
  have rxComplete : P.rxComplete → P.noOverrun := fun ⟨_, _, _, _, _, hu⟩ => hu.noOverrun
  cases ph with
  | ex1 | ex5 => exact quiet h
  | tx t =>
    cases t with
    | tx1 => exact quiet h
    | tx4 | tx5 | txa1 => exact h.elim txArmed quiet
    | tx2 | tx3 | txf1 =>
      obtain ⟨-, -, -, -, -, hu⟩ := h
      exact hu.noOverrun
    | tx6 | txf2 =>
      obtain ⟨-, -, -, -, -, -, hu⟩ := h
      exact hu.noOverrun
    | txa2 =>
      obtain ⟨-, -, -, hu⟩ := h
      exact hu.noOverrun
    | txa3 =>
      obtain ⟨-, -, -, -, hu⟩ := h
      exact hu.noOverrun
    | txa4 =>
      obtain ⟨-, -, -, -, -, hu⟩ := h
      exact hu.noOverrun
  | rx r =>
    cases r with
    | rx1 => exact quiet h
    | rx4 | rx5 | rxa1 => exact h.elim rxArmed rxComplete
    | rx2 | rx3 | rx7 =>
      obtain ⟨-, -, -, -, -, -, hu⟩ := h
      exact hu.noOverrun
    | rx6 | rxa4 =>
      obtain ⟨-, -, -, -, -, hu⟩ := h
      exact hu.noOverrun
    | rxa2 =>
      obtain ⟨-, -, -, hn⟩ := h
      exact hn
    | rxa3 =>
      obtain ⟨-, -, -, -, hu⟩ := h
      exact hu.noOverrun

/-- With no overrun due the shift engine sets no error flag. -/
theorem Port.periphStep_flags {P P' : Port} {m : Byte} (h : P.periphStep m = some P') (hn : P.noOverrun) :
    P'.modf = P.modf ∧ P'.errf = P.errf := by
  rcases Port.periphStep_cases h with ⟨f, hf, rfl⟩ | ⟨b, -, -, rfl⟩ | ⟨-, -, -, -, rfl⟩
  · rw [Port.complete_eq]
    cases hc : f.capture with
    | false => exact ⟨rfl, by simp⟩
    | true => exact ⟨rfl, by simp [hn f hf hc]⟩
  · exact ⟨rfl, rfl⟩
  · exact ⟨rfl, rfl⟩

/-- MODF and ERRF stay clear at a step with no overrun due in which ENV takes no bus event on the port. -/
theorem PortStep.flagsClear {s : State} {p : Nat} {P P' : Port} (h : PortStep s p P P') (hn : P.noOverrun)
    (hb : ¬s.takesBusEvent p) (hf : P.modf = false ∧ P.errf = false) : P'.modf = false ∧ P'.errf = false := by
  cases h with
  | same => exact hf
  | completes c C i rest _ r hm hC hc hd hport he =>
    cases he with
    | configure => exact ⟨rfl, rfl⟩
    | setCs | getCs => exact hf
  | phase i ph l hfit =>
    have k := phaseStep_frame s.params.qcap l P hfit
    exact ⟨k.modf.trans hf.1, k.errf.trans hf.2⟩
  | misfires c C i ph l _ hC hc hi hh =>
    have k := handlerStep_frame hh
    exact ⟨k.modf hf.1, k.errf.trans hf.2⟩
  | fires i _ hm hh =>
    have k := handlerStep_frame hh
    exact ⟨k.modf hf.1, k.errf.trans hf.2⟩
  | shifts m _ hm hx =>
    obtain ⟨hmodf, herrf⟩ := Port.periphStep_flags hx hn
    exact ⟨hmodf.trans hf.1, herrf.trans hf.2⟩
  | modeFault hm hbe => exact absurd hbe hb
  | busError hbe => exact absurd hbe hb

/-- Along a run that keeps the one-user invariant and in which ENV takes no bus event on the port, its error flags stay
clear. -/
theorem run_flagsClear {run : Nat → State} {n p c : Nat} (hrun : isRunTo run n)
    (hs : ∀ k, k ≤ n → (run k).SoleInv p c) (hb : noBusFaults run n p)
    (h0 : ∀ P, (run 0).ports[p]? = some P → P.modf = false ∧ P.errf = false) :
    ∀ k, k ≤ n → ∀ P, (run k).ports[p]? = some P → P.modf = false ∧ P.errf = false := by
  intro k hk
  induction k with
  | zero => exact h0
  | succ k ih =>
    intro P' hP'
    have he := step_effect (hrun k hk)
    have hlt : p < (run k).ports.length := he.sticky.portCount ▸ (List.getElem?_eq_some_iff.mp hP').1
    have hP := List.getElem?_eq_getElem hlt
    have hfit := (State.soleInv_iff.mp (hs k (by omega))).2 _ hP
    exact (he.portStep hP hP').flagsClear (Port.atPhase_noOverrun hfit) (hb k hk) (ih (by omega) _ hP)

/-- Settles O59: the one-user invariant along the run, which between commands says that the port is quiescent and at
every phase that no overrun is due. -/
theorem singleCallerPortIsIdle : Obligations.SingleCallerPortIsIdle := by
  intro run p n hrun hinv haway hquiet ⟨c, hu⟩
  have h0 : (run 0).SoleInv p c := by
    refine State.soleInv_iff.mpr ⟨fun c' _ => haway c', fun P hP => ?_⟩
    rw [haway c]
    exact hquiet P hP
  have hsole : ∀ k, k ≤ n → (run k).SoleInv p c := fun k hk =>
    (run_soleInv hrun hinv.busyOnCommands h0 hu k hk).2
  refine ⟨fun k hk hnone P hP => ?_, fun hb hclear => run_flagsClear hrun hsole hb hclear⟩
  have hfit := (State.soleInv_iff.mp (hsole k hk)).2 P hP
  rwa [hnone c] at hfit

end Sys2Proof.Machine
end

section
/-! Queues, and whose port a step reads and writes (`20_memory.md` rules R83 to R85 and R109). -/

namespace Sys2Proof.Machine

/-- Settles O12 by what a push with and without room does; a pop and a reset are their definitions. -/
theorem queueIsBoundedFifo : Obligations.QueueIsBoundedFifo :=
  ⟨fun _ _ b h => queuePush_room b h, fun _ _ b h => queuePush_full b h, fun _ _ => rfl, rfl, fun _ => ⟨rfl, rfl⟩⟩

/-! ### The port a step writes (rule R109) -/

/-- An instruction writes no port but the one it names. -/
theorem exec_otherPort {u t : State} {i : Instr} {q : Nat} (h : exec i u = .next t) (hq : q ≠ i.port.toNat) :
    t.ports[q]? = u.ports[q]? := by
  cases hi : i.isCommand with
  | true => exact (exec_command_changesOnly hi h).otherPorts q hq
  | false =>
    obtain ⟨-, P', -, -, rfl⟩ := exec_handler hi h
    exact u.ports_setPort_ne P' hq

/-- A caller's move names the port of the command it runs or issues. -/
theorem State.namedPort_of_command {s : State} {c : Nat} {i : Instr} (hm : s.nextMove = .caller c)
    (hi : s.commandOf c = some i) : s.namedPort = some i.port.toNat := by
  simp [State.namedPort, hm, hi]

theorem State.commandOf_busy {s : State} {c : Nat} {C : Caller} {i : Instr} {ph : Phase} {l : Locals}
    (hC : s.callers[c]? = some C) (hc : C.ctl = .busy i ph l) : s.commandOf c = some i := by
  simp [State.commandOf, hC, hc]

theorem State.commandOf_idle {s : State} {c : Nat} {C : Caller} {i : Instr} {rest : List Word}
    (hC : s.callers[c]? = some C) (hc : C.ctl = .idle) (hd : decodeCommand C.stream = .ok (i, rest)) :
    s.commandOf c = some i := by
  simp [State.commandOf, hC, hc, hd]

/-- A bus event names its port. -/
theorem State.takesBusEvent.namedPort {s : State} {p : Nat} (h : s.takesBusEvent p) : s.namedPort = some p := by
  obtain ⟨-, hm | hm, -⟩ := h <;> simp [State.namedPort, hm]

/-- A step leaves every port that its move does not name. -/
theorem StepEffect.otherPort {s t : State} {q : Nat} (h : StepEffect s t) (hq : s.namedPort ≠ some q) :
    t.ports[q]? = s.ports[q]? := by
  have ne {p : Nat} (hp : s.namedPort = some p) : q ≠ p := by
    rintro rfl
    exact hq hp
  have written {p : Nat} (X : Port) (hp : s.namedPort = some p) :
      (s.takeMove.setPort p X).ports[q]? = s.ports[q]? := by
    rw [State.ports_setPort_ne _ X (ne hp), s.takeMove_ports]
  cases h with
  | outOfRange => rfl
  | skips | misuse | illegal => simp
  | issues c C i rest t hm hC hc hd hon hx =>
    rw [exec_otherPort hx (ne (s.namedPort_of_command hm (s.commandOf_idle hC hc hd)))]
    simp
  | continues c C i ph l t hm hC hc hx =>
    rw [exec_otherPort hx (ne (s.namedPort_of_command hm (s.commandOf_busy hC hc)))]
    simp
  | fires p P P' i hm => exact written P' (by simp [State.namedPort, hm])
  | shifts p m P P' hm => exact written P' (by simp [State.namedPort, hm])
  | modeFault p P hm hb => exact written _ hb.namedPort
  | busError p P hb => exact written _ hb.namedPort

/-- Settles O53: each effect of a step writes the named port or none. -/
theorem stepTouchesOnePort : Obligations.StepTouchesOnePort := by
  intro s t q _ h hq
  exact (step_effect h).otherPort hq

/-! ### What a step of a port's own agents reads (rule R109) -/

/-- The record that a move of a port's own agents leaves of the port's record: a function of the parameters and that
record. -/
def Port.afterMove (params : Params) (m : Move) (P : Port) : Port :=
  match m with
  | .isr p => ((decodeCause (BitVec.ofNat 4 p) P.cv).bind fun i => handlerStep params i P).getD P
  | .periph _ miso => (P.periphStep miso).getD P
  | .modeFault _ => if P.clken then P.modeFault else P
  | .busError _ => if P.clken then P.busError else P
  | .caller _ => P
  | .callFromInterrupt _ => P
  | .callWhileBusy _ => P

theorem isrMove_port {s t : State} {p : Nat} (hp : p < 16) (h : isrMove p s = .next t) :
    t.ports[p]? = (s.ports[p]?).map (Port.afterMove s.params (.isr p)) := by
  cases hP : s.ports[p]? with
  | none =>
    simp only [isrMove, hP] at h
    cases h
    simp [hP]
  | some P =>
    simp only [isrMove, hP, Port.queryCauses] at h
    cases hd : decodeCause (BitVec.ofNat 4 p) P.cv with
    | none =>
      simp only [hd] at h
      cases h
      simp [hP, Port.afterMove, hd]
    | some i =>
      simp only [hd] at h
      obtain ⟨hi, hport⟩ := decodeCause_branch hd
      have hnat : i.port.toNat = p := by
        rw [hport, BitVec.toNat_ofNat]
        omega
      obtain ⟨Q, P', hQ, hh, rfl⟩ := exec_handler hi h
      rw [State.hasPort, hnat, hP] at hQ
      cases hQ
      rw [hnat, State.ports_setPort_self P' hP]
      simp [Port.afterMove, hd, hh]

theorem peripheralMove_port {s t : State} {p : Nat} {m : Byte} (h : peripheralMove p m s = .next t) :
    t.ports[p]? = (s.ports[p]?).map (Port.afterMove s.params (.periph p m)) := by
  cases hP : s.ports[p]? with
  | none =>
    simp only [peripheralMove, hP] at h
    cases h
    simp [hP]
  | some P =>
    simp only [peripheralMove, hP] at h
    cases hx : P.periphStep m with
    | none =>
      simp only [hx] at h
      cases h
      simp [hP, Port.afterMove, hx]
    | some P' =>
      simp only [hx] at h
      split at h
      · cases h
        rw [State.ports_setPort_self P' hP]
        simp [Port.afterMove, hx]
      · cases h

theorem environmentMove_port (s : State) (p : Nat) (event : Port → Port) :
    (environmentMove p event s).ports[p]? = (s.ports[p]?).map fun P => if P.clken then event P else P := by
  cases hP : s.ports[p]? with
  | none => simp [environmentMove, hP]
  | some P =>
    cases hk : P.clken with
    | false => simp [environmentMove_of_clockOff event hP hk, hP, hk]
    | true =>
      have he : environmentMove p event s = s.setPort p (event P) := by simp [environmentMove, hP, hk]
      rw [he, State.ports_setPort_self _ hP]
      simp [hk]

/-- Settles O54: the record after is `Port.afterMove` of the parameters and the record before. -/
theorem portStepReadsOwnPort : Obligations.PortStepReadsOwnPort := by
  intro s s' t t' p m hm hp hparams hports h h'
  have after (u v : State) (hx : runMove m u = .next v) :
      v.ports[p]? = (u.ports[p]?).map (Port.afterMove u.params m) := by
    rcases hm with rfl | ⟨b, rfl⟩ | rfl | rfl
    · exact isrMove_port hp hx
    · exact peripheralMove_port hx
    · cases hx
      exact environmentMove_port u p Port.modeFault
    · cases hx
      exact environmentMove_port u p Port.busError
  rw [after s t h, after s' t' h', hparams, hports]

end Sys2Proof.Machine
end

section
/-! The invariant of every step (`20_memory.md` rule R82, `10_state.md` rules R32 to R40 and R57): each operation on the
state keeps it, and so does every step, being made of them. -/

namespace Sys2Proof.Machine

/-! ### What the effects on a configured port keep -/

/-- CONFIGURED, CLKEN and BR are unchanged, and the queues stay within the capacity `n`. -/
structure Port.KeepsBounds (n : Nat) (P P' : Port) : Prop where
  configured : P'.configured = P.configured
  clken : P'.clken = P.clken
  br : P'.br = P.br
  txq : P.txq.length ≤ n → P'.txq.length ≤ n
  rxq : P.rxq.length ≤ n → P'.rxq.length ≤ n

theorem Port.KeepsBounds.refl (n : Nat) (P : Port) : P.KeepsBounds n P := ⟨rfl, rfl, rfl, id, id⟩

/-- A configured port stays sound when its bounds are kept. -/
theorem Port.KeepsBounds.sound {params : Params} {P P' : Port} (k : P.KeepsBounds params.qcap P')
    (h : P.Sound params) (hc : P.configured = true) : P'.Sound params where
  txqFits := k.txq h.txqFits
  rxqFits := k.rxq h.rxqFits
  brFits := k.br ▸ h.brFits
  clockOn := k.clken.trans (h.clockOn.trans k.configured.symm)
  untouched hu := nomatch hu.symm.trans (k.configured.trans hc)

theorem Port.lockTake_keepsBounds {P P' : Port} (n : Nat) (h : P.lockTake = some P') : P.KeepsBounds n P' := by
  unfold Port.lockTake at h
  split at h
  · cases h
  · cases h
    exact ⟨rfl, rfl, rfl, id, id⟩

theorem Port.pushTx_keepsBounds {P P' : Port} {n : Nat} {b : Byte} (h : P.pushTx n b = some P') :
    P.KeepsBounds n P' := by
  rw [Port.pushTx_eq] at h
  split at h
  · cases h
    refine ⟨rfl, rfl, rfl, fun _ => ?_, id⟩
    simpa
  · cases h

theorem txPhase_keepsBounds (n : Nat) (t : TxPhase) (l : Locals) (P : Port) :
    P.KeepsBounds n (txPhase n t l P).1 := by
  cases t with
  | tx1 | tx5 =>
    simp only [txPhase]
    split
    · exact Port.lockTake_keepsBounds n ‹_›
    · exact .refl n P
  | tx2 =>
    simp only [txPhase]
    split
    · exact .refl n P
    · split
      · exact Port.pushTx_keepsBounds ‹_›
      · exact .refl n P
  | txf1 | txa3 => exact ⟨rfl, rfl, rfl, fun _ => Nat.zero_le n, id⟩
  | _ => exact ⟨rfl, rfl, rfl, id, id⟩

theorem rxPhase_keepsBounds (n : Nat) (len : BitVec 16) (f : Byte) (r : RxPhase) (l : Locals) (P : Port) :
    P.KeepsBounds n (rxPhase len f r l P).1 := by
  cases r with
  | rx1 | rx5 =>
    simp only [rxPhase]
    split
    · exact Port.lockTake_keepsBounds n ‹_›
    · exact .refl n P
  | rx6 | rxa3 => exact ⟨rfl, rfl, rfl, id, fun _ => Nat.zero_le n⟩
  | _ => exact ⟨rfl, rfl, rfl, id, id⟩

theorem exPhase_keepsBounds (n : Nat) (len : BitVec 16) (ph : Phase) (l : Locals) (P : Port) :
    P.KeepsBounds n (exPhase n len ph l P).1 := by
  cases ph with
  | tx t => exact txPhase_keepsBounds n t l P
  | rx r => exact rxPhase_keepsBounds n len 0 r l P
  | ex1 | ex5 => exact ⟨rfl, rfl, rfl, id, id⟩

theorem phaseStep_keepsBounds (n : Nat) {i : Instr} {ph : Phase} (l : Locals) (P : Port) (hf : ph.fits i = true) :
    P.KeepsBounds n (phaseStep n i ph l P).1 :=
  phaseStep_cases (motive := fun r => P.KeepsBounds n r.1) n l P hf (fun t _ => txPhase_keepsBounds n t l P)
    (fun r len f _ => rxPhase_keepsBounds n len f r l P) (fun len => exPhase_keepsBounds n len ph l P)

theorem Port.isrTxe_keepsBounds (n : Nat) (P : Port) : P.KeepsBounds n P.isrTxe := by
  unfold Port.isrTxe
  cases hq : P.txq with
  | nil => exact ⟨rfl, rfl, rfl, id, id⟩
  | cons b q => exact ⟨rfl, rfl, rfl, fun h => by rw [hq] at h; exact Nat.le_of_succ_le h, id⟩

theorem Port.countReceived_keepsBounds (P : Port) (params : Params) (b : Byte) :
    P.KeepsBounds params.qcap (P.countReceived params b) := by
  unfold Port.countReceived
  simp only
  split
  · exact ⟨rfl, rfl, rfl, id, queuePush_length_le b⟩
  · split
    · exact ⟨rfl, rfl, rfl, id, queuePush_length_le b⟩
    · exact ⟨rfl, rfl, rfl, id, id⟩

theorem handlerStep_keepsBounds {params : Params} {i : Instr} {P P' : Port} (h : handlerStep params i P = some P') :
    P.KeepsBounds params.qcap P' := by
  rcases handlerStep_cases h with ⟨-, rfl⟩ | ⟨-, b, -, rfl⟩ | ⟨-, rfl⟩ | ⟨-, rfl⟩
  · exact P.isrTxe_keepsBounds params.qcap
  · obtain ⟨h1, h2, h3, h4, h5⟩ := Port.countReceived_keepsBounds { P with rxbuf := none } params b
    exact ⟨h1, h2, h3, h4, h5⟩
  · exact ⟨rfl, rfl, rfl, id, id⟩
  · exact .refl _ _

theorem Port.periphStep_keepsBounds {P P' : Port} {m : Byte} (n : Nat) (h : P.periphStep m = some P') :
    P.KeepsBounds n P' := by
  rcases Port.periphStep_cases h with ⟨f, -, rfl⟩ | ⟨b, -, -, rfl⟩ | ⟨-, -, -, -, rfl⟩
  · rw [Port.complete_eq]
    exact ⟨rfl, rfl, rfl, id, id⟩
  · exact ⟨rfl, rfl, rfl, id, id⟩
  · exact ⟨rfl, rfl, rfl, id, id⟩

theorem Port.modeFault_keepsBounds (n : Nat) (P : Port) : P.KeepsBounds n P.modeFault := by
  rw [Port.modeFault, Port.abortFrame_eq]
  exact ⟨rfl, rfl, rfl, id, id⟩

/-! ### When a port is configured -/

/-- The ISR of an unconfigured port does not fire: none of its causes is enabled. -/
theorem Port.Sound.configured_of_fires {params : Params} {P : Port} {p : PortId} {i : Instr} (h : P.Sound params)
    (hd : decodeCause p P.cv = some i) : P.configured = true := by
  by_contra hc
  have hoff : P.causesOff := by
    rw [h.untouched (Bool.eq_false_of_not_eq_true hc)]
    exact ⟨rfl, rfl, rfl⟩
  cases (hoff.decodeCause_eq_none p).symm.trans hd

/-- The shift engine of an unconfigured port has no clock. -/
theorem Port.Sound.configured_of_periphStep {params : Params} {P P' : Port} {m : Byte} (h : P.Sound params)
    (hx : P.periphStep m = some P') : P.configured = true := by
  rw [← h.clockOn]
  by_contra hk
  cases (P.periphStep_of_clockOff m (Bool.eq_false_of_not_eq_true hk)).symm.trans hx

/-- A command of one phase leaves a sound port, configured if it was. -/
theorem IssueEffect.sound {params : Params} {i : Instr} {P P' : Port} {r : CommandResult}
    (he : IssueEffect params i P P' r) (h : P.Sound params) :
    P'.Sound params ∧ (P.configured = true → P'.configured = true) := by
  cases he with
  | configure m k cspin pinset hk =>
    have hbr : (BitVec.ofNat 3 (k - params.pmin)).toNat ≤ params.pmax - params.pmin := by
      simp only [BitVec.toNat_ofNat]
      omega
    exact ⟨⟨Nat.zero_le _, Nat.zero_le _, hbr, rfl, nofun⟩, fun _ => rfl⟩
  | setCs level hc =>
    have k : P.KeepsBounds params.qcap (P.driveCs level) := ⟨rfl, rfl, rfl, id, id⟩
    exact ⟨k.sound h hc, id⟩
  | getCs => exact ⟨h, id⟩

/-! ### Results, and the temporaries of a transfer -/

/-- A result with no bytes meets its format. -/
theorem CommandResult.sound_of_noData (n : Nat) {r : CommandResult} (h : r.data = []) : r.sound n :=
  ⟨by simp [h], fun hne => absurd h hne⟩

theorem IssueEffect.result_sound {params : Params} {i : Instr} {P P' : Port} {r : CommandResult}
    (he : IssueEffect params i P P' r) (n : Nat) : r.sound n := by
  cases he <;> exact CommandResult.sound_of_noData n rfl

/-- The part of `BusySound` that a phase moves: phase and temporaries are of the command and fit each other. -/
structure PhaseSound (n : Nat) (i : Instr) (ph : Phase) (l : Locals) : Prop where
  phaseFits : ph.fits i = true
  endsPayload : l.endsPayload i
  nonePending : ph.allPushed = true → l.remaining = []
  dataFits : l.data.length ≤ n
  dataOnlyOk : l.data ≠ [] → ph = .rx .rx7 ∨ (ph = .ex5 ∧ l.sub = .ok)

theorem BusySound.phaseSound {s : State} {i : Instr} {ph : Phase} {l : Locals} (h : BusySound s i ph l) :
    PhaseSound s.params.qcap i ph l :=
  ⟨h.phaseFits, h.endsPayload, h.nonePending, h.dataFits, h.dataOnlyOk⟩

/-- A Busy caller that goes on to a sound phase of its command. -/
theorem BusySound.goto {s : State} {i : Instr} {ph ph' : Phase} {l l' : Locals} (h : BusySound s i ph l)
    (h' : PhaseSound s.params.qcap i ph' l') : BusySound s i ph' l' :=
  ⟨h.transfer, h.wellFormed, h.onConfigured, h'.phaseFits, h'.endsPayload, h'.nonePending, h'.dataFits, h'.dataOnlyOk⟩

/-- A phase goes on to a sound phase, or ends with a result within its format. -/
def Flow.Sound (n : Nat) (i : Instr) : Flow → Prop
  | .goto ph l => PhaseSound n i ph l
  | .ret r => r.sound n

theorem Locals.endsPayload.suffix {i : Instr} {l l' : Locals} (h : l.endsPayload i)
    (hs : l'.remaining <:+ l.remaining) : l'.endsPayload i := by
  have none (hl : l.remaining = []) : l'.remaining = [] := List.suffix_nil.mp (hl ▸ hs)
  cases i with
  | transmit | exchange => exact hs.trans h
  | _ => exact none h

/-- A phase in which no byte has been collected. -/
theorem PhaseSound.of_noData {n : Nat} {i : Instr} {ph : Phase} {l : Locals} (hf : ph.fits i = true)
    (he : l.endsPayload i) (hp : ph.allPushed = true → l.remaining = []) (hd : l.data = []) : PhaseSound n i ph l :=
  ⟨hf, he, hp, by simp [hd], fun hne => absurd hd hne⟩

/-- Before the end of a RECEIVE no byte has been collected. -/
theorem PhaseSound.noData {n : Nat} {i : Instr} {ph : Phase} {l : Locals} (h : PhaseSound n i ph l)
    (h7 : ph ≠ .rx .rx7) (h5 : ph ≠ .ex5) : l.data = [] := by
  by_contra hd
  rcases h.dataOnlyOk hd with e | ⟨e, -⟩
  · exact h7 e
  · exact h5 e

/-- A transfer starts soundly. -/
theorem firstPhase_sound (n : Nat) {i : Instr} (ht : i.isTransfer = true) :
    PhaseSound n i (firstPhase i).1 (firstPhase i).2 := by
  cases i with
  | transmit p payload => exact .of_noData rfl (List.suffix_refl payload) nofun rfl
  | receive p len f => exact .of_noData rfl rfl nofun rfl
  | exchange p payload len => exact .of_noData rfl (List.suffix_refl payload) nofun rfl
  | _ => cases ht

/-- A phase of TRANSMIT, the command's own or an inner one, takes bytes off the payload only, and off its front. -/
theorem txPhase_sound {n : Nat} {i : Instr} {t : TxPhase} {l : Locals} (P : Port)
    (hi : ∀ t', (Phase.tx t').fits i = true) (h : PhaseSound n i (.tx t) l) : (txPhase n t l P).2.Sound n i := by
  have hd : l.data = [] := h.noData nofun nofun
  have next {t' : TxPhase} (hp : (Phase.tx t').allPushed = true → l.remaining = []) :
      PhaseSound n i (.tx t') l := .of_noData (hi t') h.endsPayload hp hd
  have ends (status : Status) : (CommandResult.plain status).sound n := CommandResult.sound_of_noData n rfl
  cases t with
  | tx1 =>
    simp only [txPhase]
    split
    · refine next fun hp => ?_
      split at hp
      · assumption
      · cases hp
    · exact ends _
  | tx2 =>
    cases hl : l.remaining with
    | nil =>
      simp only [txPhase, hl]
      exact next fun _ => hl
    | cons b rest =>
      simp only [txPhase, hl]
      split
      · refine .of_noData (hi _) (h.endsPayload.suffix ?_) (fun hp => ?_) hd
        · rw [hl]
          exact List.suffix_cons b rest
        · split at hp
          · assumption
          · cases hp
      · exact next nofun
  | tx5 =>
    simp only [txPhase]
    split <;> exact next fun _ => h.nonePending rfl
  | tx3 | tx4 | txa1 | txa2 | txa3 => exact next fun _ => h.nonePending rfl
  | txf1 => exact next nofun
  | tx6 | txf2 | txa4 => exact ends _

/-- A phase of RECEIVE, the command's own or an inner one, collects what RXQ holds, and returns it with OK. -/
theorem rxPhase_sound {n : Nat} {i : Instr} {r : RxPhase} {l : Locals} {P : Port} (len : BitVec 16) (f : Byte)
    (hi : ∀ r', (Phase.rx r').fits i = true) (hP : P.rxq.length ≤ n) (h : PhaseSound n i (.rx r) l) :
    (rxPhase len f r l P).2.Sound n i := by
  have next {r' : RxPhase} (hd : l.data = []) : PhaseSound n i (.rx r') l :=
    .of_noData (hi r') h.endsPayload nofun hd
  have ends (status : Status) : (CommandResult.plain status).sound n := CommandResult.sound_of_noData n rfl
  cases r with
  | rx1 =>
    simp only [rxPhase]
    split
    · exact next (h.noData nofun nofun)
    · exact ends _
  | rx5 =>
    simp only [rxPhase]
    split <;> exact next (h.noData nofun nofun)
  | rx6 => exact ⟨hi _, h.endsPayload.suffix (List.suffix_refl _), nofun, hP, fun _ => .inl rfl⟩
  | rx7 => exact ⟨h.dataFits, fun _ => ⟨rfl, rfl⟩⟩
  | rx2 | rx3 | rx4 | rxa1 | rxa2 | rxa3 => exact next (h.noData nofun nofun)
  | rxa4 => exact ends _

/-- After its inner TRANSMIT an EXCHANGE has collected no byte. -/
theorem exchangeAfterTx_sound {n : Nat} {p : PortId} {payload : List Byte} {len : BitVec 16} {l : Locals} {flow : Flow}
    (he : l.endsPayload (.exchange p payload len)) (hd : l.data = []) (h : flow.Sound n (.exchange p payload len)) :
    (exchangeAfterTx l flow).Sound n (.exchange p payload len) := by
  cases flow with
  | goto ph l' => exact h
  | ret r =>
    simp only [exchangeAfterTx]
    split
    · exact .of_noData rfl he nofun hd
    · exact .of_noData rfl he nofun rfl

/-- An EXCHANGE takes over what its inner RECEIVE returns. -/
theorem exchangeAfterRx_sound {n : Nat} {p : PortId} {payload : List Byte} {len : BitVec 16} {l : Locals} {flow : Flow}
    (he : l.endsPayload (.exchange p payload len)) (h : flow.Sound n (.exchange p payload len)) :
    (exchangeAfterRx l flow).Sound n (.exchange p payload len) := by
  cases flow with
  | goto ph l' => exact h
  | ret r =>
    obtain ⟨hfits, hok⟩ := h
    exact ⟨rfl, he, nofun, hfits, fun hd => .inr ⟨rfl, (hok hd).1⟩⟩

theorem exPhase_sound {n : Nat} {p : PortId} {payload : List Byte} {len : BitVec 16} {ph : Phase} {l : Locals}
    {P : Port} (hP : P.rxq.length ≤ n) (h : PhaseSound n (.exchange p payload len) ph l) :
    (exPhase n len ph l P).2.Sound n (.exchange p payload len) := by
  cases ph with
  | ex1 => exact .of_noData rfl h.endsPayload nofun (h.noData nofun nofun)
  | tx t => exact exchangeAfterTx_sound h.endsPayload (h.noData nofun nofun) (txPhase_sound P (fun _ => rfl) h)
  | rx r => exact exchangeAfterRx_sound h.endsPayload (rxPhase_sound len 0 (fun _ => rfl) hP h)
  | ex5 =>
    refine ⟨h.dataFits, fun hd => ?_⟩
    rcases h.dataOnlyOk hd with e | ⟨-, hok⟩
    · cases e
    · exact ⟨hok, rfl⟩

theorem phaseStep_sound {n : Nat} {i : Instr} {ph : Phase} {l : Locals} {P : Port} (hP : P.rxq.length ≤ n)
    (h : PhaseSound n i ph l) : (phaseStep n i ph l P).2.Sound n i := by
  have hf := h.phaseFits
  cases i with
  | transmit p payload =>
    cases ph with
    | tx t => exact txPhase_sound P (fun _ => rfl) h
    | _ => cases hf
  | receive p len f =>
    cases ph with
    | rx r => exact rxPhase_sound len f (fun _ => rfl) hP h
    | _ => cases hf
  | exchange p payload len => exact exPhase_sound hP h
  | _ => cases ph <;> cases hf

/-! ### What a word sequence decodes to -/

/-- A decoded payload is as long as its 16-bit length field says. -/
theorem takePayload_fits {len : BitVec 16} {ws rest : List Word} {payload : List Byte}
    (h : takePayload len.toNat ws = .ok (payload, rest)) : payloadFits payload = true := by
  rw [payloadFits, (takePayload_ok h).1]
  exact decide_eq_true len.isLt

/-- A decoded command has an encoding. -/
theorem decodeCommand_wellFormed {ws rest : List Word} {i : Instr} (h : decodeCommand ws = .ok (i, rest)) :
    i.WellFormed := by
  unfold decodeCommand at h
  split at h
  · cases h
  · split at h
    · unfold decodeConfigure at h
      repeat' split at h
      all_goals cases h
      rfl
    · unfold decodeTransmit at h
      repeat' split at h
      all_goals cases h
      exact takePayload_fits ‹_›
    · cases h
      rfl
    · unfold decodeExchange at h
      repeat' split at h
      all_goals cases h
      exact takePayload_fits ‹_›
    · unfold decodeSetCs at h
      split at h <;> cases h
      rfl
    · unfold decodeGetCs at h
      split at h <;> cases h
      rfl
    · cases h

/-! ### Each operation on the state keeps the invariant -/

/-- A Busy caller stays sound while its port stays configured. -/
theorem BusySound.congr {s t : State} {i : Instr} {ph : Phase} {l : Locals} (h : BusySound s i ph l)
    (hparams : t.params = s.params)
    (hports : ∀ P, s.hasPort i.port P → P.configured = true → ∃ P', t.hasPort i.port P' ∧ P'.configured = true) :
    BusySound t i ph l := by
  obtain ⟨P, hP, hc⟩ := h.onConfigured
  exact ⟨h.transfer, h.wellFormed, hports P hP hc, h.phaseFits, h.endsPayload, h.nonePending, hparams ▸ h.dataFits,
    h.dataOnlyOk⟩

theorem State.Inv.params_kept {s t : State} (h : s.Inv) (hparams : t.params = s.params)
    (hports : t.ports.length = s.ports.length) (hcallers : t.callers.length = s.callers.length) :
    t.paramsInRange = true :=
  (State.paramsInRange_congr hparams hports hcallers).trans h.params

/-- The invariant reads the parameters, the ports, the callers and FAULTS. -/
theorem State.Inv.congr {s t : State} (h : s.Inv) (hparams : t.params = s.params) (hports : t.ports = s.ports)
    (hcallers : t.callers = s.callers) (hfaults : t.faults = s.faults) : t.Inv where
  params := h.params_kept hparams (by rw [hports]) (by rw [hcallers])
  ports := by
    rw [hports, hparams]
    exact h.ports
  busy C hC i ph l hc :=
    (h.busy C (hcallers ▸ hC) i ph l hc).congr hparams fun P hP hk => ⟨P, by rwa [State.hasPort, hports], hk⟩
  results := by
    rw [hcallers, hparams]
    exact h.results
  faultsDistinct := hfaults ▸ h.faultsDistinct
  faultStops := by
    rw [hfaults, hcallers]
    exact h.faultStops
  stopFaulted := by
    rw [hcallers, hfaults]
    exact h.stopFaulted

theorem State.Inv.refuse {s : State} (h : s.Inv) : s.refuse.Inv := h.congr rfl rfl rfl rfl

theorem State.Inv.takeMove {s : State} (h : s.Inv) : s.takeMove.Inv :=
  h.congr s.takeMove_params s.takeMove_ports s.takeMove_callers s.takeMove_faults

theorem State.Inv.setActor {s : State} (h : s.Inv) (c : Nat) : (s.setActor c).Inv := h.congr rfl rfl rfl rfl

/-- The record of a port the block has is sound. -/
theorem State.Inv.port {s : State} {p : Nat} {P : Port} (h : s.Inv) (hP : s.ports[p]? = some P) : P.Sound s.params :=
  h.ports P (List.mem_of_getElem? hP)

/-- A port may become any sound record that is configured if it was. -/
theorem State.Inv.setPort {s : State} {p : Nat} {P P' : Port} (h : s.Inv) (hP : s.ports[p]? = some P)
    (hs : P'.Sound s.params) (hc : P.configured = true → P'.configured = true) : (s.setPort p P').Inv where
  params := h.params_kept rfl (by simp) rfl
  ports Q hQ := by
    rcases List.mem_or_eq_of_mem_set hQ with hQ | rfl
    · exact h.ports Q hQ
    · exact hs
  busy C hC i ph l hctl := (h.busy C hC i ph l hctl).congr rfl fun Q hQ hk => by
    by_cases e : i.port.toNat = p
    · subst e
      cases hP.symm.trans hQ
      exact ⟨P', State.ports_setPort_self P' hP, hc hk⟩
    · exact ⟨Q, (State.ports_setPort_ne s P' e).trans hQ, hk⟩
  results := h.results
  faultsDistinct := h.faultsDistinct
  faultStops := h.faultStops
  stopFaulted := h.stopFaulted

/-- A configured port may become any record that keeps its bounds. -/
theorem State.Inv.setPort_keepsBounds {s : State} {p : Nat} {P P' : Port} (h : s.Inv) (hP : s.ports[p]? = some P)
    (hc : P.configured = true) (k : P.KeepsBounds s.params.qcap P') : (s.setPort p P').Inv :=
  h.setPort hP (k.sound (h.port hP) hc) k.configured.trans

/-- A property of every caller's record stays one when a record changes to another with it. -/
theorem forall_mem_modify {callers : List Caller} {c : Nat} {C : Caller} {f : Caller → Caller} {Q : Caller → Prop}
    (hC : callers[c]? = some C) (h : ∀ D ∈ callers, Q D) (hf : Q (f C)) : ∀ D ∈ callers.modify c f, Q D := by
  intro D hD
  rw [callers_modify_eq_set f hC] at hD
  rcases List.mem_or_eq_of_mem_set hD with hD | rfl
  · exact h D hD
  · exact hf

theorem mem_insertFault {faults : List FaultRecord} {r x : FaultRecord} :
    x ∈ insertFault faults r ↔ x ∈ faults ∨ x = r := by
  unfold insertFault
  split
  · exact ⟨.inl, fun hx => hx.elim id fun e => e ▸ ‹_›⟩
  · rw [List.mem_append, List.mem_singleton]

theorem insertFault_nodup {faults : List FaultRecord} (h : faults.Nodup) (r : FaultRecord) :
    (insertFault faults r).Nodup := by
  unfold insertFault
  split
  · exact h
  · rw [← List.concat_eq_append]
    exact List.Nodup.concat ‹_› h

section
variable {s : State} {c : Nat} {C : Caller} (h : s.Inv) (hC : s.callers[c]? = some C)
include h hC

/-- A caller's record may change to a sound one that is Stopped if and only if it was. -/
theorem State.Inv.modifyCaller {f : Caller → Caller}
    (hbusy : ∀ i ph l, (f C).ctl = .busy i ph l → BusySound s i ph l)
    (hresults : ∀ r ∈ (f C).results, r.sound s.params.qcap) (hstop : (f C).ctl = .stopped ↔ C.ctl = .stopped) :
    State.Inv { s with callers := s.callers.modify c f } where
  params := h.params_kept rfl rfl (by simp)
  ports := h.ports
  busy := forall_mem_modify hC
    (fun D hD i ph l hc => (h.busy D hD i ph l hc).congr rfl fun P hP hk => ⟨P, hP, hk⟩)
    (fun i ph l hc => (hbusy i ph l hc).congr rfl fun P hP hk => ⟨P, hP, hk⟩)
  results := forall_mem_modify hC h.results hresults
  faultsDistinct := h.faultsDistinct
  faultStops r hr := by
    obtain ⟨D, hD, hs⟩ := h.faultStops r hr
    by_cases e : r.caller = c
    · rw [e] at hD ⊢
      cases hC.symm.trans hD
      exact ⟨f C, callers_modify_self f hC, hstop.mpr hs⟩
    · exact ⟨D, (callers_modify_ne _ f e).trans hD, hs⟩
  stopFaulted d D hD hs := by
    by_cases e : d = c
    · subst e
      cases (callers_modify_self f hC).symm.trans hD
      exact h.stopFaulted d C hC (hstop.mp hs)
    · exact h.stopFaulted d D ((callers_modify_ne _ f e).symm.trans hD) hs

theorem State.Inv.setStream (ws : List Word) : (s.setStream c ws).Inv :=
  h.modifyCaller hC (fun i ph l hc => h.busy C (List.mem_of_getElem? hC) i ph l hc)
    (h.results C (List.mem_of_getElem? hC)) Iff.rfl

theorem State.Inv.setCtl {i : Instr} {ph : Phase} {l : Locals} (hns : C.ctl ≠ .stopped) (hb : BusySound s i ph l) :
    (s.setCtl c (.busy i ph l)).Inv := by
  refine h.modifyCaller hC (fun _ _ _ hc => ?_) (h.results C (List.mem_of_getElem? hC)) ?_
  · cases hc
    exact hb
  · exact iff_of_false nofun hns

theorem State.Inv.returnResult {r : CommandResult} (hns : C.ctl ≠ .stopped) (hr : r.sound s.params.qcap) :
    (s.returnResult c r).Inv := by
  refine h.modifyCaller hC (fun _ _ _ hc => nomatch hc) (fun r' hr' => ?_) ?_
  · rcases List.mem_append.mp hr' with hr' | hr'
    · exact h.results C (List.mem_of_getElem? hC) r' hr'
    · cases List.mem_singleton.mp hr'
      exact hr
  · exact iff_of_false nofun hns

theorem State.Inv.raiseFault (kind : FaultKind) (w : Word) : (s.raiseFault kind c w).Inv where
  params := h.params_kept rfl rfl (by simp)
  ports := h.ports
  busy := forall_mem_modify hC
    (fun D hD i ph l hc => (h.busy D hD i ph l hc).congr rfl fun P hP hk => ⟨P, hP, hk⟩) nofun
  results := forall_mem_modify hC h.results (h.results C (List.mem_of_getElem? hC))
  faultsDistinct := insertFault_nodup h.faultsDistinct _
  faultStops r hr := by
    by_cases e : r.caller = c
    · rw [e]
      exact ⟨_, callers_modify_self _ hC, rfl⟩
    · rcases mem_insertFault.mp hr with hr | rfl
      · obtain ⟨D, hD, hs⟩ := h.faultStops r hr
        exact ⟨D, (callers_modify_ne _ _ e).trans hD, hs⟩
      · exact absurd rfl e
  stopFaulted d D hD hs := by
    by_cases e : d = c
    · exact ⟨_, mem_insertFault.mpr (.inr rfl), e.symm⟩
    · obtain ⟨r, hr, hrd⟩ := h.stopFaulted d D ((callers_modify_ne _ _ e).symm.trans hD) hs
      exact ⟨r, subset_insertFault _ _ hr, hrd⟩

end

/-! ### Every step keeps the invariant -/

/-- A phase of a transfer keeps the invariant: first its effect on the port, then that on the caller. -/
theorem State.Inv.takePhase {u : State} {i : Instr} {ph : Phase} {l : Locals} {C : Caller} {P : Port} (h : u.Inv)
    (hC : u.callers[u.actor]? = some C) (hc : C.ctl = .busy i ph l) (hP : u.hasPort i.port P) :
    ((u.setPort i.port.toNat (phaseStep u.params.qcap i ph l P).1).follow u.actor i
      (phaseStep u.params.qcap i ph l P).2).Inv := by
  have hb : BusySound u i ph l := h.busy C (List.mem_of_getElem? hC) i ph l hc
  have hcfg : P.configured = true := by
    obtain ⟨Q, hQ, hk⟩ := hb.onConfigured
    cases hP.symm.trans hQ
    exact hk
  have hport : (u.setPort i.port.toNat (phaseStep u.params.qcap i ph l P).1).Inv :=
    h.setPort_keepsBounds hP hcfg (phaseStep_keepsBounds _ l P hb.phaseFits)
  have hflow := phaseStep_sound (h.port hP).rxqFits hb.phaseSound
  have hns : C.ctl ≠ .stopped := by simp [hc]
  cases hf : (phaseStep u.params.qcap i ph l P).2 with
  | goto ph' l' =>
    rw [hf] at hflow
    exact hport.setCtl hC hns ((hport.busy C (List.mem_of_getElem? hC) i ph l hc).goto hflow)
  | ret r =>
    rw [hf] at hflow
    exact hport.returnResult hC hns hflow

/-- A command's step keeps the invariant. -/
theorem CommandEffect.inv {i : Instr} {u t : State} {C : Caller} (he : CommandEffect i u C t) (h : u.Inv)
    (hC : u.callers[u.actor]? = some C) (hw : i.WellFormed) : t.Inv := by
  have idle (hc : C.ctl = .idle) : C.ctl ≠ .stopped := by simp [hc]
  cases he with
  | rejects hc => exact h.returnResult hC (idle hc) (CommandResult.sound_of_noData _ rfl)
  | faults hc kind => exact h.raiseFault hC kind i.word0
  | completes hc P P' r hP hie ht =>
    obtain ⟨hs, hk⟩ := hie.sound (h.port hP)
    exact (h.setPort hP hs hk).returnResult hC (idle hc) (hie.result_sound _)
  | starts hc P hP hcfg ht =>
    have k := firstPhase_sound u.params.qcap ht
    exact h.setCtl hC (idle hc) ⟨ht, hw, ⟨P, hP, hcfg⟩, k.phaseFits, k.endsPayload, k.nonePending, k.dataFits,
      k.dataOnlyOk⟩
  | phase ph l hc P hP ht hf => exact h.takePhase hC hc hP
  | refuses => exact h.refuse

theorem exec_inv {i : Instr} {u t : State} (hi : i.isCommand = true) (hw : i.WellFormed) (h : u.Inv)
    (hx : exec i u = .next t) : t.Inv := by
  obtain ⟨C, hC, he⟩ := exec_command hi hx
  exact he.inv h hC hw

theorem StepEffect.inv {s t : State} (he : StepEffect s t) (h : s.Inv) : t.Inv := by
  have keeps {p : Nat} {P P' : Port} (hP : s.ports[p]? = some P) (hc : P.configured = true)
      (k : P.KeepsBounds s.params.qcap P') : (s.takeMove.setPort p P').Inv :=
    h.takeMove.setPort_keepsBounds (by simpa using hP) hc (by simpa using k)
  have clocked {p : Nat} {P : Port} (hb : s.takesBusEvent p) (hP : s.ports[p]? = some P) : P.configured = true := by
    obtain ⟨-, -, Q, hQ, hk⟩ := hb
    cases hP.symm.trans hQ
    exact (h.port hP).clockOn.symm.trans hk
  cases he with
  | outOfRange => exact h.refuse
  | skips => exact h.takeMove
  | misuse => exact h.takeMove.refuse
  | issues c C i rest t hm hC hc hd hon hx =>
    have hu : ((s.takeMove.setActor c).setStream c rest).Inv :=
      (h.takeMove.setActor c).setStream (C := C) (by simpa using hC) rest
    exact exec_inv (decodeCommand_isCommand hd) (decodeCommand_wellFormed hd) hu hx
  | illegal c C hC hc => exact (h.takeMove.setActor c).raiseFault (C := C) (by simpa using hC) _ _
  | continues c C i ph l t hm hC hc hx =>
    have hb := h.busy C (List.mem_of_getElem? hC) i ph l hc
    exact exec_inv (isCommand_of_isTransfer hb.transfer) hb.wellFormed (h.takeMove.setActor c) hx
  | fires p P P' i hm hP hd hh => exact keeps hP ((h.port hP).configured_of_fires hd) (handlerStep_keepsBounds hh)
  | shifts p m P P' hm hP hx =>
    exact keeps hP ((h.port hP).configured_of_periphStep hx) (Port.periphStep_keepsBounds _ hx)
  | modeFault p P hm hb hP => exact keeps hP (clocked hb hP) (P.modeFault_keepsBounds _)
  | busError p P hb hP => exact keeps hP (clocked hb hP) ⟨rfl, rfl, rfl, id, id⟩

/-- Settles O47: every step is made of operations that keep the invariant. -/
theorem stepKeepsInvariant : Obligations.StepKeepsInvariant := by
  intro s t h hstep
  exact (step_effect hstep).inv h

end Sys2Proof.Machine
end

section
/-! What a TRANSMIT of a port's one user writes: DRLOG, TXQ and the bytes not yet pushed stay one sequence
(`20_memory.md` rule R108, `41_transfer.md` rules R203 to R205). -/

namespace Sys2Proof.Machine

/-! ### The bytes written to DR and those queued -/

/-- The bytes written to DR, and after them those that wait in TXQ. -/
def Port.sentBytes (P : Port) : List Byte := P.drlog ++ P.txq

/-- A firing moves at most the oldest byte of TXQ to the end of DRLOG. -/
theorem handlerStep_sentBytes {params : Params} {i : Instr} {P P' : Port} (h : handlerStep params i P = some P') :
    P'.sentBytes = P.sentBytes := by
  rcases handlerStep_cases h with ⟨-, rfl⟩ | ⟨-, b, -, rfl⟩ | ⟨-, rfl⟩ | ⟨-, rfl⟩
  · unfold Port.isrTxe
    cases hq : P.txq with
    | nil => rfl
    | cons b q => simp [Port.sentBytes, queuePop, Port.writeData, hq]
  · obtain ⟨n, q, e | e⟩ := Port.countReceived_cases { P with rxbuf := none } params b <;> rw [e] <;> rfl
  · rfl
  · rfl

theorem Port.periphStep_sentBytes {P P' : Port} {m : Byte} (h : P.periphStep m = some P') :
    P'.sentBytes = P.sentBytes := by
  rw [Port.sentBytes, (Port.periphStep_traces h).1, (Port.periphStep_busFrame h).txq, Port.sentBytes]

theorem Port.modeFault_sentBytes (P : Port) : P.modeFault.sentBytes = P.sentBytes := by
  rw [Port.modeFault, Port.abortFrame_eq]
  rfl

/-! ### A phase of TRANSMIT -/

/-- Where a phase of TRANSMIT that leaves the port's record `P` goes, given the whole sequence `bytes`: on to a phase of
it with the sequence kept, or to its end, which is OK only when the sequence has been written to DR. -/
def Flow.writesAll (bytes : List Byte) (P : Port) : Flow → Prop
  | .goto ph l => (∃ t, ph = .tx t) ∧ P.sentBytes ++ l.remaining = bytes
  | .ret r => r.status = .ok → P.drlog = bytes

/-- The phases of TRANSMIT but TXF1 and TXA3 move bytes from the payload to TXQ only, in order. -/
theorem txPhase_writesAll (n : Nat) {t : TxPhase} {l : Locals} {P : Port} (h : P.atPhase (.tx t))
    (hl : (Phase.tx t).allPushed = true → l.remaining = []) (hf : t ≠ .txf1) (ha : t ≠ .txa3) :
    (txPhase n t l P).2.writesAll (P.sentBytes ++ l.remaining) (txPhase n t l P).1 := by
  cases t with
  | tx1 =>
    obtain ⟨ht, -⟩ := h
    simp only [txPhase, Port.lockTake_available ht]
    exact ⟨⟨_, rfl⟩, rfl⟩
  | tx2 =>
    cases hr : l.remaining with
    | nil =>
      simp only [txPhase, hr]
      exact ⟨⟨_, rfl⟩, by rw [hr]⟩
    | cons b rest =>
      simp only [txPhase, hr, Port.pushTx_eq]
      by_cases hroom : P.txq.length < n
      · simp only [hroom, if_true]
        exact ⟨⟨_, rfl⟩, by simp [Port.sentBytes]⟩
      · simp only [hroom, if_false]
        exact ⟨⟨_, rfl⟩, by rw [hr]⟩
  | tx5 =>
    rcases h with ⟨ht, -⟩ | ⟨ht, -⟩
    · simp only [txPhase, Port.lockTake_taken ht]
      exact ⟨⟨_, rfl⟩, rfl⟩
    · simp only [txPhase, Port.lockTake_available ht]
      exact ⟨⟨_, rfl⟩, rfl⟩
  | tx6 =>
    obtain ⟨-, -, hq, -⟩ := h
    intro _
    simp [txPhase, Port.sentBytes, hq, hl rfl]
  | tx3 | tx4 | txa1 | txa2 => exact ⟨⟨_, rfl⟩, rfl⟩
  | txf1 => exact absurd rfl hf
  | txa3 => exact absurd rfl ha
  | txf2 | txa4 => exact nofun

/-! ### The record of the caller after a phase of TRANSMIT -/

/-- What becomes of caller record `C` of command `i` on port `p` and of the whole sequence `bytes` at a phase of
TRANSMIT: `C'` is in its next phase with the sequence kept, or the TRANSMIT has ended, or the EXCHANGE has left it; an
OK end has the whole sequence in the DRLOG of the port's record `P`. -/
def transmitOutcome (p : PortId) (i : Instr) (bytes : List Byte) (P : Port) (C C' : Caller) : Prop :=
  (∃ t l, C'.ctl = .busy i (.tx t) l ∧ P.drlog ++ P.txq ++ l.remaining = bytes) ∨
    ((∃ payload, i = .transmit p payload) ∧ C'.ctl = .idle ∧ ∃ r, C'.results = C.results ++ [r] ∧
      (r.status = .ok → P.drlog = bytes)) ∨
    ((∃ payload n, i = .exchange p payload n) ∧ C'.results = C.results ∧
      ((∃ l, C'.ctl = .busy i (.rx .rx1) l ∧ P.drlog = bytes) ∨ ∃ l, C'.ctl = .busy i .ex5 l ∧ l.sub ≠ .ok))

section
variable {u : State} {c : Nat} {C : Caller} (hC : u.callers[c]? = some C) {bytes : List Byte} {P : Port} {flow : Flow}
  (h : flow.writesAll bytes P)
include hC h

theorem State.follow_transmit (p : PortId) (payload : List Byte) :
    ∃ C', (u.follow c (.transmit p payload) flow).callers[c]? = some C' ∧
      transmitOutcome p (.transmit p payload) bytes P C C' := by
  cases flow with
  | goto ph l =>
    obtain ⟨⟨t, rfl⟩, hb⟩ := h
    exact ⟨_, callers_modify_self _ hC, .inl ⟨t, l, rfl, hb⟩⟩
  | ret r => exact ⟨_, callers_modify_self _ hC, .inr (.inl ⟨⟨_, rfl⟩, rfl, r, rfl, h⟩)⟩

theorem State.follow_exchange (p : PortId) (payload : List Byte) (n : BitVec 16) (l : Locals) :
    ∃ C', (u.follow c (.exchange p payload n) (exchangeAfterTx l flow)).callers[c]? = some C' ∧
      transmitOutcome p (.exchange p payload n) bytes P C C' := by
  cases flow with
  | goto ph l' =>
    obtain ⟨⟨t, rfl⟩, hb⟩ := h
    exact ⟨_, callers_modify_self _ hC, .inl ⟨t, l', rfl, hb⟩⟩
  | ret r =>
    by_cases hok : r.status = .ok
    · simp only [exchangeAfterTx, hok, if_true]
      exact ⟨_, callers_modify_self _ hC, .inr (.inr ⟨⟨_, _, rfl⟩, rfl, .inl ⟨_, rfl, h hok⟩⟩)⟩
    · simp only [exchangeAfterTx, hok, if_false]
      exact ⟨_, callers_modify_self _ hC, .inr (.inr ⟨⟨_, _, rfl⟩, rfl, .inr ⟨_, rfl, hok⟩⟩)⟩

end

/-! ### Whose step it is -/

/-- A Busy caller's step of its command is its phase. -/
theorem exec_busy {u t : State} {C : Caller} {i : Instr} {ph : Phase} {l : Locals} (hi : i.isCommand = true)
    (hC : u.callers[u.actor]? = some C) (hc : C.ctl = .busy i ph l) (hx : exec i u = .next t) :
    ∃ P, u.hasPort i.port P ∧ t = (u.setPort i.port.toNat (phaseStep u.params.qcap i ph l P).1).follow u.actor i
      (phaseStep u.params.qcap i ph l P).2 := by
  obtain ⟨D, hD, he⟩ := exec_command hi hx
  obtain rfl : D = C := Option.some.inj (hD.symm.trans hC)
  cases he with
  | rejects hc' | faults hc' | completes hc' | starts hc' => cases hc.symm.trans hc'
  | phase ph' l' hc' P hP =>
    cases hc.symm.trans hc'
    exact ⟨P, hP, rfl⟩
  | refuses cmd ph' l' hc' hne =>
    cases hc.symm.trans hc'
    exact absurd rfl hne

/-- A caller's step in a phase of TRANSMIT has the outcome that the phase gives its port and its flow. -/
theorem exec_transmitOutcome {u t : State} {C : Caller} {i : Instr} {ph : TxPhase} {l : Locals} {P P' : Port}
    {bytes : List Byte} (hf : (Phase.tx ph).fits i = true) (hC : u.callers[u.actor]? = some C)
    (hc : C.ctl = .busy i (.tx ph) l) (hx : exec i u = .next t) (hP : u.hasPort i.port P) (hP' : t.hasPort i.port P')
    (hw : (txPhase u.params.qcap ph l P).2.writesAll bytes (txPhase u.params.qcap ph l P).1) :
    ∃ C', t.callers[u.actor]? = some C' ∧ transmitOutcome i.port i bytes P' C C' := by
  have key (hi : i.isCommand = true) : P' = (phaseStep u.params.qcap i (.tx ph) l P).1 ∧
      t = (u.setPort i.port.toNat P').follow u.actor i (phaseStep u.params.qcap i (.tx ph) l P).2 := by
    obtain ⟨Q, hQ, rfl⟩ := exec_busy hi hC hc hx
    cases hP.symm.trans hQ
    rw [State.hasPort, State.follow_ports] at hP'
    cases (State.ports_setPort_self _ hP).symm.trans hP'
    exact ⟨rfl, rfl⟩
  have hCP : (u.setPort i.port.toNat P').callers[u.actor]? = some C := hC
  cases i with
  | transmit p payload =>
    obtain ⟨rfl, rfl⟩ := key rfl
    exact State.follow_transmit hCP hw p payload
  | exchange p payload n =>
    obtain ⟨rfl, rfl⟩ := key rfl
    exact State.follow_exchange hCP hw p payload n l
  | _ => cases hf

/-- While the one user of a port is Busy on it, a step is that caller's next phase, or it leaves its record and the
bytes written and queued. -/
theorem StepEffect.ownPhase_or {s t : State} {p c : Nat} {C : Caller} {i : Instr} {ph : Phase} {l : Locals}
    (h : StepEffect s t) (hb : s.BusyOnCommands) (hs : s.SoleInv p c) (hu : s.soleUser p c)
    (hC : s.callers[c]? = some C) (hc : C.ctl = .busy i ph l) :
    exec i (s.takeMove.setActor c) = .next t ∨
      (t.callers[c]? = some C ∧
        ∀ P P', s.ports[p]? = some P → t.ports[p]? = some P' → P'.sentBytes = P.sentBytes) := by
  have same (hports : t.ports[p]? = s.ports[p]?) (P P' : Port) (hP : s.ports[p]? = some P)
      (hP' : t.ports[p]? = some P') : P'.sentBytes = P.sentBytes := by
    cases (hP.symm.trans hports.symm).trans hP'
    rfl
  have written {q : Nat} {Q X : Port} (hQ : s.ports[q]? = some Q) (hX : X.sentBytes = Q.sentBytes) (P P' : Port)
      (hP : s.ports[p]? = some P) (hP' : (s.takeMove.setPort q X).ports[p]? = some P') :
      P'.sentBytes = P.sentBytes := by
    rcases State.port_of_setPort (u := s.takeMove) (by simpa using hQ) (by simpa using hP) hP' with
      rfl | ⟨rfl, rfl, rfl⟩
    · rfl
    · exact hX
  have notIdle {k : Nat} {D : Caller} (hD : s.callers[k]? = some D) (hd : D.ctl = .idle) : c ≠ k := by
    rintro rfl
    cases hC.symm.trans hD
    cases hc.symm.trans hd
  cases h with
  | outOfRange => exact .inr ⟨hC, same rfl⟩
  | skips | misuse => exact .inr ⟨by simpa using hC, same (by simp)⟩
  | issues k D j rest t hm hD hd hdec hon hx =>
    have hk := notIdle hD hd
    have hp : p ≠ j.port.toNat := by
      rintro rfl
      exact hk (hu k hon).symm
    refine .inr ⟨?_, same (by rw [exec_otherPort hx hp]; simp)⟩
    rw [(exec_command_changesOnly (decodeCommand_isCommand hdec) hx).otherCallers c hk, State.setStream_callers,
      callers_modify_ne _ _ hk]
    simpa using hC
  | illegal k D hD hd =>
    refine .inr ⟨?_, same (by simp)⟩
    rw [State.raiseFault_callers, callers_modify_ne _ _ (notIdle hD hd)]
    simpa using hC
  | continues k D j ph' l' t hm hD hd hx =>
    by_cases hk : c = k
    · subst hk
      cases hC.symm.trans hD
      cases hc.symm.trans hd
      exact .inl hx
    · have hp : p ≠ j.port.toNat := by
        intro e
        have := hs.othersAway k (Ne.symm hk)
        rw [State.phaseOn_busy p hD hd, if_pos e.symm] at this
        cases this
      refine .inr ⟨?_, same (by rw [exec_otherPort hx hp]; simp)⟩
      rw [(exec_command_changesOnly (hb k D j ph' l' hD hd) hx).otherCallers c hk]
      simpa using hC
  | fires q Q X j hm hQ hd hh => exact .inr ⟨by simpa using hC, written hQ (handlerStep_sentBytes hh)⟩
  | shifts q m Q X hm hQ hx => exact .inr ⟨by simpa using hC, written hQ (Port.periphStep_sentBytes hx)⟩
  | modeFault q Q hm hbe hQ => exact .inr ⟨by simpa using hC, written hQ Q.modeFault_sentBytes⟩
  | busError q Q hbe hQ => exact .inr ⟨by simpa using hC, written hQ rfl⟩

/-- Settles O50: the user's own phase moves bytes in order, and every other step leaves the sequence. -/
theorem transmitWritesPayloadInOrder : Obligations.TransmitWritesPayloadInOrder := by
  intro s t p c C i ph l P P' hinv hs hu hC hc hport hf ha hstep hP hP'
  subst hport
  have hb : BusySound s i (.tx ph) l := hinv.busy C (List.mem_of_getElem? hC) i _ l hc
  have hat : P.atPhase (.tx ph) := by
    have := (State.soleInv_iff.mp hs).2 P hP
    rwa [State.phaseOn_busy _ hC hc, if_pos rfl] at this
  rcases (step_effect hstep).ownPhase_or hinv.busyOnCommands hs hu hC hc with hx | ⟨hC', hsent⟩
  · exact exec_transmitOutcome (u := s.takeMove.setActor c) hb.phaseFits (by simpa using hC) hc hx
      (by simpa [State.hasPort] using hP) hP' (txPhase_writesAll _ hat hb.nonePending hf ha)
  · exact ⟨C, hC', .inl ⟨ph, l, hc, congrArg (· ++ l.remaining) (hsent P P' hP hP')⟩⟩

end Sys2Proof.Machine
end

section
/-! The encoding of commands and results, the assembler and the dispatch of the handler (`30_encoding.md`). -/

namespace Sys2Proof.Machine

/-! ### Which decoder an operation code selects (rule R135) -/

section
variable {w : Word} (ws : List Word)

theorem decodeCommand_configure (h : opOf w = 1) : decodeCommand (w :: ws) = decodeConfigure w ws := by
  simp [decodeCommand, h]

theorem decodeCommand_transmit (h : opOf w = 2) : decodeCommand (w :: ws) = decodeTransmit w ws := by
  simp [decodeCommand, h]

theorem decodeCommand_receive (h : opOf w = 3) : decodeCommand (w :: ws) = decodeReceive w ws := by
  simp [decodeCommand, h]

theorem decodeCommand_exchange (h : opOf w = 4) : decodeCommand (w :: ws) = decodeExchange w ws := by
  simp [decodeCommand, h]

theorem decodeCommand_setCs (h : opOf w = 5) : decodeCommand (w :: ws) = decodeSetCs w ws := by
  simp [decodeCommand, h]

theorem decodeCommand_getCs (h : opOf w = 6) : decodeCommand (w :: ws) = decodeGetCs w ws := by
  simp [decodeCommand, h]

theorem decodeCommand_reserved (h : opOf w = 0 ∨ 7 ≤ (opOf w).toNat) : decodeCommand (w :: ws) = .error .reservedOp := by
  have hn : (opOf w).toNat = 0 ∨ 7 ≤ (opOf w).toNat := h.imp_left fun e => by rw [e]; rfl
  simp only [decodeCommand]
  split
  case h_7 => rfl
  all_goals omega

end

/-- The operation codes are the six of rule R135 and the reserved ones of rule R144 (a). -/
theorem opcode_cases (op : BitVec 4) :
    (op = 0 ∨ 7 ≤ op.toNat) ∨ op = 1 ∨ op = 2 ∨ op = 3 ∨ op = 4 ∨ op = 5 ∨ op = 6 := by
  revert op
  decide

/-! ### Decoding what was encoded -/

/-- EXCHANGE's word 1 of a length below 2^16: TXLEN is the length, and the reserved field is 0 (`lenOf_ofNat`). -/
theorem txLenOf_ofNat {n : Nat} (h : n < 2 ^ 16) : (txLenOf (BitVec.ofNat 32 n)).toNat = n := by
  simp only [txLenOf, BitVec.extractLsb'_toNat, BitVec.toNat_ofNat, Nat.shiftRight_eq_div_pow]
  omega

theorem lenOf_ofNat {n : Nat} (h : n < 2 ^ 16) : lenOf (BitVec.ofNat 32 n) = 0 := by
  apply BitVec.eq_of_toNat_eq
  simp only [lenOf, BitVec.extractLsb'_toNat, BitVec.toNat_ofNat, Nat.shiftRight_eq_div_pow, BitVec.ofNat_eq_ofNat]
  omega

/-- Word 0 of SET_CS: bit 8 is the level, and the reserved bits [15:9] are 0. -/
theorem setCs_word0_level (p : PortId) (level : Bool) : (Instr.setCs p level).word0.getLsbD 8 = level := by
  rw [getLsbD_imm8Of, Instr.word0, imm8Of_commandWord]
  cases level <;> rfl

theorem setCs_word0_reserved (p : PortId) (level : Bool) : (Instr.setCs p level).word0.extractLsb' 9 7 = 0 := by
  rw [extract_imm8Of, Instr.word0, imm8Of_commandWord]
  cases level <;> rfl

/-- Settles O2: OP selects the decoder of the command, which finds its fields in word 0 and its payload after it. -/
theorem decodeOfEncode : Obligations.DecodeOfEncode := by
  intro i rest hi hwf
  cases i with
  | configure p mode baud cspin pinset =>
    show decodeCommand (commandWord 1 p mode 0 :: baud :: cspin :: pinset :: rest) = _
    rw [decodeCommand_configure _ (opOf_commandWord ..)]
    simp [decodeConfigure, lenOf_commandWord, portOf_commandWord, imm8Of_commandWord]
  | transmit p payload =>
    have hn : payload.length < 2 ^ 16 := of_decide_eq_true hwf
    have hlen : (BitVec.ofNat 16 payload.length).toNat = payload.length := by
      rw [BitVec.toNat_ofNat, Nat.mod_eq_of_lt hn]
    show decodeCommand (commandWord 2 p 0 (BitVec.ofNat 16 payload.length) :: (packBytes payload ++ rest)) = _
    rw [decodeCommand_transmit _ (opOf_commandWord ..)]
    simp only [decodeTransmit, imm8Of_commandWord, lenOf_commandWord, portOf_commandWord, hlen, takePayload_packBytes,
      ne_eq, not_true, if_false]
  | receive p len fill =>
    show decodeCommand (commandWord 3 p fill len :: rest) = _
    rw [decodeCommand_receive _ (opOf_commandWord ..), decodeReceive, portOf_commandWord, lenOf_commandWord,
      imm8Of_commandWord]
  | exchange p payload rxLen =>
    have hn : payload.length < 2 ^ 16 := of_decide_eq_true hwf
    show decodeCommand (commandWord 4 p 0 rxLen :: BitVec.ofNat 32 payload.length :: (packBytes payload ++ rest)) = _
    rw [decodeCommand_exchange _ (opOf_commandWord ..)]
    simp only [decodeExchange, imm8Of_commandWord, lenOf_commandWord, portOf_commandWord, lenOf_ofNat hn,
      txLenOf_ofNat hn, takePayload_packBytes, ne_eq, not_true, if_false]
  | setCs p level =>
    show decodeCommand ((Instr.setCs p level).word0 :: rest) = _
    have hop : opOf (Instr.setCs p level).word0 = 5 := opOf_commandWord ..
    rw [decodeCommand_setCs _ hop, decodeSetCs, setCs_word0_level, setCs_word0_reserved]
    simp [Instr.word0, lenOf_commandWord, portOf_commandWord]
  | getCs p =>
    show decodeCommand (commandWord 6 p 0 0 :: rest) = _
    rw [decodeCommand_getCs _ (opOf_commandWord ..)]
    simp [decodeGetCs, imm8Of_commandWord, lenOf_commandWord, portOf_commandWord]
  | _ => cases hi

/-! ### Encoding what was decoded -/

/-- A word whose OP is known is the command word of that OP and of its other fields. -/
theorem commandWord_of_op {w : Word} {op : BitVec 4} (h : opOf w = op) :
    commandWord op (portOf w) (imm8Of w) (lenOf w) = w := h ▸ commandWord_fields w

/-- EXCHANGE's word 1 is the length in its TXLEN field when its reserved field is 0. -/
theorem ofNat_txLenOf {w : Word} (h : lenOf w = 0) : BitVec.ofNat 32 (txLenOf w).toNat = w := by
  have h0 := congrArg BitVec.toNat h
  apply BitVec.eq_of_toNat_eq
  simp only [lenOf, txLenOf, BitVec.extractLsb'_toNat, BitVec.toNat_ofNat, Nat.shiftRight_eq_div_pow,
    BitVec.ofNat_eq_ofNat] at h0 ⊢
  omega

section
variable {w : Word} {ws rest : List Word} {i : Instr}

theorem encode_decodeConfigure (hop : opOf w = 1) (h : decodeConfigure w ws = .ok (i, rest)) :
    encodeCommand i ++ rest = w :: ws := by
  have hw := commandWord_of_op hop
  unfold decodeConfigure at h
  split at h
  · cases h
  · rename_i hlen
    rw [not_not.mp hlen] at hw
    split at h <;> cases h
    exact congrArg (· :: _) hw

theorem encode_decodeTransmit (hop : opOf w = 2) (h : decodeTransmit w ws = .ok (i, rest)) :
    encodeCommand i ++ rest = w :: ws := by
  have hw := commandWord_of_op hop
  unfold decodeTransmit at h
  split at h
  · cases h
  · rename_i himm
    rw [not_not.mp himm] at hw
    split at h <;> cases h
    rename_i payload htake
    obtain ⟨hlen, hws⟩ := takePayload_ok htake
    show commandWord 2 (portOf w) 0 (BitVec.ofNat 16 payload.length) :: (packBytes payload ++ rest) = _
    rw [hlen, BitVec.ofNat_toNat, BitVec.setWidth_eq, hw, hws]

theorem encode_decodeReceive (hop : opOf w = 3) (h : decodeReceive w ws = .ok (i, rest)) :
    encodeCommand i ++ rest = w :: ws := by
  cases h
  exact congrArg (· :: _) (commandWord_of_op hop)

theorem encode_decodeExchange (hop : opOf w = 4) (h : decodeExchange w ws = .ok (i, rest)) :
    encodeCommand i ++ rest = w :: ws := by
  have hw := commandWord_of_op hop
  unfold decodeExchange at h
  split at h
  · cases h
  · rename_i himm
    rw [not_not.mp himm] at hw
    split at h
    · cases h
    · rename_i w1 ws1
      split at h
      · cases h
      · rename_i hres
        split at h <;> cases h
        rename_i payload htake
        obtain ⟨hlen, hws⟩ := takePayload_ok htake
        show commandWord 4 (portOf w) 0 (lenOf w) :: BitVec.ofNat 32 payload.length :: (packBytes payload ++ rest) = _
        rw [hlen, ofNat_txLenOf (not_not.mp hres), hw, hws]

theorem encode_decodeSetCs (hop : opOf w = 5) (h : decodeSetCs w ws = .ok (i, rest)) :
    encodeCommand i ++ rest = w :: ws := by
  have hw := commandWord_of_op hop
  unfold decodeSetCs at h
  split at h <;> cases h
  rename_i hres
  obtain ⟨himm, hlen⟩ := not_or.mp hres
  have hlevel : BitVec.ofNat 8 (w.getLsbD 8).toNat = imm8Of w := by
    rw [getLsbD_imm8Of, byte_of_bit _ (by rw [← extract_imm8Of]; exact not_not.mp himm)]
  show commandWord 5 (portOf w) (BitVec.ofNat 8 (w.getLsbD 8).toNat) 0 :: ws = _
  rw [hlevel, ← not_not.mp hlen, hw]

theorem encode_decodeGetCs (hop : opOf w = 6) (h : decodeGetCs w ws = .ok (i, rest)) :
    encodeCommand i ++ rest = w :: ws := by
  have hw := commandWord_of_op hop
  unfold decodeGetCs at h
  split at h <;> cases h
  rename_i hres
  obtain ⟨himm, hlen⟩ := not_or.mp hres
  rw [not_not.mp himm, not_not.mp hlen] at hw
  exact congrArg (· :: _) hw

end

/-- Settles O3: what each decoder accepts is its command's encoding and the words it leaves. -/
theorem encodeOfDecode : Obligations.EncodeOfDecode := by
  intro ws i rest h
  refine ⟨decodeCommand_isCommand h, decodeCommand_wellFormed h, ?_⟩
  cases ws with
  | nil => cases h
  | cons w ws =>
    rcases opcode_cases (opOf w) with hop | hop | hop | hop | hop | hop | hop
    · cases (decodeCommand_reserved ws hop).symm.trans h
    · exact encode_decodeConfigure hop (decodeCommand_configure ws hop ▸ h)
    · exact encode_decodeTransmit hop (decodeCommand_transmit ws hop ▸ h)
    · exact encode_decodeReceive hop (decodeCommand_receive ws hop ▸ h)
    · exact encode_decodeExchange hop (decodeCommand_exchange ws hop ▸ h)
    · exact encode_decodeSetCs hop (decodeCommand_setCs ws hop ▸ h)
    · exact encode_decodeGetCs hop (decodeCommand_getCs ws hop ▸ h)

/-! ### Which words are illegal (rule R144) -/

/-- A decoder that rejects on a condition and goes on otherwise rejects on the condition or later. -/
theorem guard_error_iff {α : Type} {c : Prop} [Decidable c] {e₀ : Illegal} {x : Except Illegal α} :
    (∃ e, (if c then .error e₀ else x) = .error e) ↔ c ∨ ∃ e, x = .error e := by
  by_cases h : c
  · exact iff_of_true ⟨e₀, if_pos h⟩ (.inl h)
  · rw [if_neg h, or_iff_right h]

section
variable {w w1 : Word} {ws ws1 : List Word}

theorem decodeConfigure_error_iff (hlen : 3 ≤ ws.length) : (∃ e, decodeConfigure w ws = .error e) ↔ lenOf w ≠ 0 := by
  match ws, hlen with
  | _ :: _ :: _ :: _, _ =>
    rw [decodeConfigure, guard_error_iff]
    simp

theorem decodeTransmit_error_iff : (∃ e, decodeTransmit w ws = .error e) ↔
    imm8Of w ≠ 0 ∨ ∃ e, takePayload (lenOf w).toNat ws = .error e := by
  rw [decodeTransmit, guard_error_iff]
  cases takePayload (lenOf w).toNat ws <;> simp

theorem decodeExchange_error_iff : (∃ e, decodeExchange w (w1 :: ws1) = .error e) ↔
    imm8Of w ≠ 0 ∨ lenOf w1 ≠ 0 ∨ ∃ e, takePayload (txLenOf w1).toNat ws1 = .error e := by
  rw [decodeExchange, guard_error_iff, guard_error_iff]
  cases takePayload (txLenOf w1).toNat ws1 <;> simp

theorem decodeSetCs_error_iff :
    (∃ e, decodeSetCs w ws = .error e) ↔ w.extractLsb' 9 7 ≠ 0 ∨ lenOf w ≠ 0 := by
  rw [decodeSetCs, guard_error_iff]
  simp

theorem decodeGetCs_error_iff : (∃ e, decodeGetCs w ws = .error e) ↔ imm8Of w ≠ 0 ∨ lenOf w ≠ 0 := by
  rw [decodeGetCs, guard_error_iff]
  simp

end

/-- The reserved bits [31:8] of GET_CS are IMM8 and LEN. -/
theorem extract_imm8Of_lenOf (w : Word) : w.extractLsb' 8 24 ≠ 0 ↔ imm8Of w ≠ 0 ∨ lenOf w ≠ 0 := by
  simp only [imm8Of, lenOf, ne_eq, ← BitVec.toNat_inj, BitVec.extractLsb'_toNat, Nat.shiftRight_eq_div_pow,
    BitVec.ofNat_eq_ofNat, BitVec.toNat_ofNat]
  omega

/-- Settles O4: OP selects the decoder, and each decoder rejects by the reserved fields and the padding of its format. -/
theorem illegalExactlyByTheRule : Obligations.IllegalExactlyByTheRule := by
  intro w ws hlen
  change _ ↔ (opOf w = 0 ∨ 7 ≤ (opOf w).toNat) ∨ (opOf w = 1 ∧ lenOf w ≠ 0) ∨
    (opOf w = 2 ∧ (imm8Of w ≠ 0 ∨ ∃ k, (lenOf w).toNat ≤ k ∧ k < 4 * payloadWords (lenOf w).toNat ∧ _)) ∨
    (opOf w = 4 ∧ (imm8Of w ≠ 0 ∨ lenOf (ws.headD 0) ≠ 0 ∨ ∃ k, (txLenOf (ws.headD 0)).toNat ≤ k ∧
      k < 4 * payloadWords (txLenOf (ws.headD 0)).toNat ∧ _)) ∨
    (opOf w = 5 ∧ (_ ∨ lenOf w ≠ 0)) ∨ (opOf w = 6 ∧ _)
  rw [extract_imm8Of_lenOf]
  rcases opcode_cases (opOf w) with hop | hop | hop | hop | hop | hop | hop
  · rw [decodeCommand_reserved ws hop]
    exact iff_of_true ⟨_, rfl⟩ (.inl hop)
  · have hl : 3 ≤ ws.length := by simpa [commandLength, hop] using hlen
    rw [decodeCommand_configure ws hop, decodeConfigure_error_iff hl]
    simp [hop]
  · have hl : payloadWords (lenOf w).toNat ≤ ws.length := by simp [commandLength, hop] at hlen; omega
    rw [decodeCommand_transmit ws hop, decodeTransmit_error_iff, takePayload_error_iff hl]
    simp [hop]
  · rw [decodeCommand_receive ws hop]
    simp [hop, decodeReceive]
  · cases ws with
    | nil => simp [commandLength, hop] at hlen; omega
    | cons w1 ws1 =>
      have hl : payloadWords (txLenOf w1).toNat ≤ ws1.length := by simp [commandLength, hop] at hlen; omega
      rw [decodeCommand_exchange _ hop, decodeExchange_error_iff, takePayload_error_iff hl]
      simp [hop, Nat.add_comm 1]
  · rw [decodeCommand_setCs ws hop, decodeSetCs_error_iff]
    simp [hop]
  · rw [decodeCommand_getCs ws hop, decodeGetCs_error_iff]
    simp [hop]

/-! ### Result words (rules R145 to R147) -/

/-- The result word as a number. -/
theorem CommandResult.word_toNat (r : CommandResult) : r.word.toNat =
    (r.data.length % 2 ^ 16 * 2 ^ 7 * 2 + r.level.toNat) * 2 ^ 8 + r.status.code.toNat := by
  rw [CommandResult.word, toNat_append_eq, toNat_append_eq, toNat_append_eq, BitVec.toNat_ofNat, BitVec.toNat_ofBool]
  rfl

theorem CommandResult.word_status (r : CommandResult) : r.word.extractLsb' 0 8 = r.status.code := by
  apply BitVec.eq_of_toNat_eq
  rw [BitVec.extractLsb'_toNat, word_toNat, Nat.shiftRight_eq_div_pow]
  omega

theorem CommandResult.word_level (r : CommandResult) : r.word.getLsbD 8 = r.level := by
  rw [CommandResult.word, BitVec.getLsbD_append, BitVec.getLsbD_append]
  simp

theorem CommandResult.word_reserved (r : CommandResult) : r.word.extractLsb' 9 7 = 0 := by
  have hl := r.level.toNat_lt
  apply BitVec.eq_of_toNat_eq
  rw [BitVec.extractLsb'_toNat, word_toNat, Nat.shiftRight_eq_div_pow]
  change _ = 0
  omega

theorem CommandResult.word_count (r : CommandResult) :
    r.word.extractLsb' 16 16 = BitVec.ofNat 16 r.data.length := by
  have hl := r.level.toNat_lt
  apply BitVec.eq_of_toNat_eq
  rw [BitVec.extractLsb'_toNat, word_toNat, Nat.shiftRight_eq_div_pow, BitVec.toNat_ofNat]
  omega

/-- Byte `k` of a byte sequence is byte `k mod 4` of its payload word `k / 4`. -/
theorem packBytes_byte (bs : List Byte) (k : Nat) (h : k < bs.length) :
    ((packBytes bs).getD (k / 4) 0).extractLsb' (8 * (k % 4)) 8 = bs[k] := by
  have hk : k < 4 * (packBytes bs).length := by rw [packBytes_length, payloadWords]; omega
  apply Option.some.inj
  rw [← getElem?_flatMap_unpackWord _ k hk, flatMap_packBytes, List.getElem?_append_left h, List.getElem?_eq_getElem h]

/-- Settles O26: the fields of the result word, and the packing of its data. -/
theorem resultWordFields : Obligations.ResultWordFields := by
  intro r
  refine ⟨?_, r.word_level, r.word_reserved, r.word_count, ?_, fun k h => ?_⟩
  · rw [r.word_status]
    cases r.status <;> rfl
  · rw [CommandResult.words, List.length_cons, packBytes_length, payloadWords, Nat.add_comm]
  · rw [CommandResult.words, Nat.add_comm, List.getD_cons_succ, packBytes_byte _ k h]

/-! ### The spec's examples and the assembler (rules R152 and R153) -/

/-- Settles O1: the decoder and the dispatch, run on each example. -/
theorem specWordsDecode : Obligations.SpecWordsDecode := by
  unfold Obligations.SpecWordsDecode
  decide

/-- Settles O6: the expansions are the definition's, and the assembler is run on each line. -/
theorem assemblerLines : Obligations.AssemblerLines := by
  unfold Obligations.AssemblerLines
  refine ⟨fun k n m b => ⟨rfl, rfl, rfl, rfl⟩, ?_⟩
  decide

/-! ### The dispatch of the handler (rules R150 and R151) -/

/-- Each bit of a 4-bit vector put together from four bits. -/
theorem getLsbD_ofBools (b0 b1 b2 b3 : Bool) :
    let cv := BitVec.ofBool b3 ++ BitVec.ofBool b2 ++ BitVec.ofBool b1 ++ BitVec.ofBool b0
    cv.getLsbD 0 = b0 ∧ cv.getLsbD 1 = b1 ∧ cv.getLsbD 2 = b2 ∧ cv.getLsbD 3 = b3 := by
  revert b0 b1 b2 b3
  decide

/-- Settles O7: the vector is built of the four bits, and `pending` compares it with 0. -/
theorem causeVectorBits : Obligations.CauseVectorBits := by
  intro P
  obtain ⟨h0, h1, h2, h3⟩ := getLsbD_ofBools (P.txe && P.txeie) (P.rxne && P.rxneie) (P.modf && P.errie)
    (P.errf && P.errie)
  exact ⟨h0, h1, h2, h3, bne_iff_ne⟩

/-- The rows of rule R151 by their bits: each row's own bit is 1 and those below it are 0. -/
theorem causeRows (cv : BitVec 4) :
    (cv &&& 0x1#4 = 0x1#4 ↔ cv.getLsbD 0 = true) ∧
    (cv &&& 0x3#4 = 0x2#4 ↔ cv.getLsbD 0 = false ∧ cv.getLsbD 1 = true) ∧
    (cv &&& 0x7#4 = 0x4#4 ↔ cv.getLsbD 0 = false ∧ cv.getLsbD 1 = false ∧ cv.getLsbD 2 = true) ∧
    (cv &&& 0xF#4 = 0x8#4 ↔
      cv.getLsbD 0 = false ∧ cv.getLsbD 1 = false ∧ cv.getLsbD 2 = false ∧ cv.getLsbD 3 = true) := by
  revert cv
  decide

/-- Settles O8: in the order of the rows, each tests one more bit. -/
theorem firstMatchingBranch : Obligations.FirstMatchingBranch := by
  intro p cv
  obtain ⟨row0, row1, row2, row3⟩ := causeRows cv
  simp only [decodeCause, row0, row1, row2, row3]
  cases cv.getLsbD 0 with
  | true => rfl
  | false =>
    cases cv.getLsbD 1 with
    | true => rfl
    | false => cases cv.getLsbD 2 <;> cases cv.getLsbD 3 <;> rfl

end Sys2Proof.Machine
end

section
/-! The prescaler, and the checks of CONFIGURE (`40_configure.md`). -/

namespace Sys2Proof.Machine

/-! ### The prescaler (rules R171 and R176) -/

/-- With tries enough, the search answers the least exponent from `k` on: it is below just the exponents that are. -/
theorem ceilLog2From_le_iff {fuel k r j : Nat} (h : r ≤ 2 ^ (k + fuel)) :
    ceilLog2From fuel k r ≤ j ↔ k ≤ j ∧ r ≤ 2 ^ j := by
  have enough {k : Nat} (hr : r ≤ 2 ^ k) : k ≤ j ↔ k ≤ j ∧ r ≤ 2 ^ j :=
    ⟨fun hk => ⟨hk, hr.trans (Nat.pow_le_pow_right Nat.two_pos hk)⟩, And.left⟩
  induction fuel generalizing k with
  | zero => exact enough h
  | succ fuel ih =>
    rw [ceilLog2From]
    split
    case isTrue hr => exact enough hr
    case isFalse hr =>
      have hne (hj : r ≤ 2 ^ j) : k ≠ j := by
        rintro rfl
        exact hr hj
      exact (ih (by rwa [Nat.add_right_comm])).trans
        ⟨fun ⟨hk, hj⟩ => ⟨Nat.le_of_succ_le hk, hj⟩, fun ⟨hk, hj⟩ => ⟨Nat.lt_of_le_of_ne hk (hne hj), hj⟩⟩

/-- `ceil_log2(r)` is the least exponent of a power of two not below `r` (`00_scope.md` rule R24). -/
theorem ceilLog2_eq_iff {r k : Nat} (h : r ≤ 2 ^ 32) : ceilLog2 r = k ↔ r ≤ 2 ^ k ∧ ∀ j, r ≤ 2 ^ j → k ≤ j := by
  have hle {j : Nat} : ceilLog2 r ≤ j ↔ r ≤ 2 ^ j := by
    rw [ceilLog2, ceilLog2From_le_iff (by rwa [Nat.zero_add])]
    simp
  constructor
  · rintro rfl
    exact ⟨hle.mp le_rfl, fun _ => hle.mpr⟩
  · rintro ⟨hk, hleast⟩
    exact Nat.le_antisymm (hle.mpr hk) (hleast _ (hle.mp le_rfl))

theorem prescale_eq_some_iff {params : Params} {f b k : Nat} : prescale params f b = some k ↔
    b ≠ 0 ∧ f / b ≠ 0 ∧ ceilLog2 (f / b) = k ∧ params.pmin ≤ k ∧ k ≤ params.pmax := by
  unfold prescale
  split
  case isTrue hb => simp [hb]
  case isFalse hb =>
    dsimp only
    split
    case isTrue hr => simp [hr]
    case isFalse hr =>
      split
      case isTrue hout =>
        refine iff_of_false nofun ?_
        rintro ⟨-, -, rfl, hmin, hmax⟩
        omega
      case isFalse hin =>
        rw [Option.some_inj]
        constructor
        · rintro rfl
          exact ⟨hb, hr, rfl, by omega⟩
        · rintro ⟨-, -, hk, -⟩
          exact hk

/-- Settles O14: the ratio is at most `f`, so the search has tries enough to find its exponent. -/
theorem prescaleIsLeastDivisor : Obligations.PrescaleIsLeastDivisor := by
  intro params f b k hf
  rw [prescale_eq_some_iff, ceilLog2_eq_iff ((Nat.div_le_self f b).trans hf.le), and_assoc]

/-- The least power of two not below a number other than 0 is below its double. -/
theorem two_pow_lt_two_mul {r k : Nat} (hr : r ≠ 0) (hleast : ∀ j, r ≤ 2 ^ j → k ≤ j) : 2 ^ k < 2 * r := by
  cases k with
  | zero => omega
  | succ j =>
    have hj : 2 ^ j < r := Nat.lt_of_not_le fun h => absurd (hleast j h) (Nat.not_succ_le_self j)
    omega

/-- Settles O15 by the bounds `r <= f/b < r + 1` of the ratio and `2^k < 2r`, `r <= 2^k` of its divisor. -/
theorem effectiveRateWithinOneStep : Obligations.EffectiveRateWithinOneStep := by
  intro params f b k hf h
  obtain ⟨hb, hr, hle, hleast, -⟩ := (prescaleIsLeastDivisor params f b k hf).mp h
  have hb : 0 < b := Nat.pos_of_ne_zero hb
  refine ⟨?_, ?_, fun hdvd => ?_⟩
  · calc b * 2 ^ k < b * (2 * (f / b)) := Nat.mul_lt_mul_of_pos_left (two_pow_lt_two_mul hr hleast) hb
      _ = 2 * (b * (f / b)) := Nat.mul_left_comm ..
      _ ≤ 2 * f := Nat.mul_le_mul_left 2 (Nat.mul_div_le f b)
  · calc f < b * (f / b + 1) := Nat.lt_mul_div_succ f hb
      _ ≤ b * (2 * 2 ^ k) := Nat.mul_le_mul_left b (by have := Nat.two_pow_pos k; omega)
      _ = 2 * b * 2 ^ k := by rw [← Nat.mul_assoc, Nat.mul_comm b]
  · calc f = b * (f / b) := (Nat.mul_div_cancel' hdvd).symm
      _ ≤ b * 2 ^ k := Nat.mul_le_mul_left b hle

/-! ### The checks of CONFIGURE (rules R172 to R174) -/

theorem modeOf_eq_none_iff {mode : Byte} : modeOf mode = none ↔ 3 < mode.toNat := by
  simp [modeOf]

theorem modeOf_of_le {mode : Byte} (h : mode.toNat ≤ 3) : modeOf mode = some (BitVec.ofNat 2 mode.toNat) :=
  if_pos h

section
variable {s : State} {p : PortId} {mode : Byte} {baud cspin pinset : Word}

/-- An Idle caller's CONFIGURE is complete in its issuing step. -/
theorem exec_configure (h : s.actorIdle) :
    exec (.configure p mode baud cspin pinset) s = .next (configureIssue p mode baud cspin pinset s) := by
  obtain ⟨C, hC, hc⟩ := h
  exact commandStep_idle hC hc

/-- Each of the three argument checks has the same outcome. -/
theorem configureIssue_invalid (h : s.ports[p.toNat]? = none ∨ modeOf mode = none ∨
      prescale s.params (busClock s.params p.toNat) baud.toNat = none) :
    configureIssue p mode baud cspin pinset s = s.returnResult s.actor (.plain .invalidArgument) := by
  unfold configureIssue
  split
  case h_1 => rfl
  case h_2 hP =>
    split
    case h_1 => rfl
    case h_2 hm =>
      split
      case h_1 => rfl
      case h_2 hk => simp [hP, hm, hk] at h

/-- A CONFIGURE whose arguments are valid goes on to the check of rule R174. -/
theorem configureIssue_valid {P : Port} {m : BitVec 2} {k : Nat} (hP : s.hasPort p P) (hm : modeOf mode = some m)
    (hk : prescale s.params (busClock s.params p.toNat) baud.toNat = some k) :
    configureIssue p mode baud cspin pinset s =
      if s.configBusy s.actor p P then
        s.raiseFault .configBusy s.actor (Instr.configure p mode baud cspin pinset).word0
      else
        (s.setPort p.toNat (P.configure m (BitVec.ofNat 3 (k - s.params.pmin)) cspin pinset)).returnResult s.actor
          (.plain .ok) := by
  rw [State.hasPort] at hP
  simp [configureIssue, hP, hm, hk]

theorem State.otherInTransfer_iff {c : Nat} : s.otherInTransfer c p = true ↔
    ∃ c' C cmd phase l, c' ≠ c ∧ s.callers[c']? = some C ∧ C.ctl = .busy cmd phase l ∧
      cmd.isTransfer = true ∧ cmd.port = p := by
  unfold State.otherInTransfer
  rw [List.any_eq_true]
  constructor
  · rintro ⟨c', -, h⟩
    rw [Bool.and_eq_true, bne_iff_ne] at h
    obtain ⟨hne, h⟩ := h
    split at h
    case h_1 cmd phase l stream results hC =>
      rw [Bool.and_eq_true, beq_iff_eq] at h
      exact ⟨c', _, cmd, phase, l, hne, hC, rfl, h⟩
    case h_2 => cases h
  · rintro ⟨c', ⟨_, stream, results⟩, cmd, phase, l, hne, hC, rfl, ht, hp⟩
    exact ⟨c', List.mem_range.mpr (List.getElem?_eq_some_iff.mp hC).1, by simp [hne, hC, ht, hp]⟩

/-- `Busy(p, c)` of rule R174. -/
theorem State.configBusy_iff {c : Nat} {P : Port} : s.configBusy c p P = true ↔
    P.configured = true ∧ (P.taken = true ∨ ∃ c' C cmd phase l, c' ≠ c ∧ s.callers[c']? = some C ∧
      C.ctl = .busy cmd phase l ∧ cmd.isTransfer = true ∧ cmd.port = p) := by
  rw [State.configBusy, Bool.and_eq_true, Bool.or_eq_true, State.otherInTransfer_iff]

end

/-- Settles O17: the issuing step stops at the first of the three argument checks that fails. -/
theorem configureRejectsArguments : Obligations.ConfigureRejectsArguments := by
  intro s p mode baud cspin pinset hidle h
  rw [← List.getElem?_eq_none_iff, ← modeOf_eq_none_iff] at h
  rw [exec_configure hidle, configureIssue_invalid h]
  rfl

/-- Settles O18: the arguments pass, and the port is Busy by rule R174. -/
theorem configureBusyFaults : Obligations.ConfigureBusyFaults := by
  intro s p mode baud cspin pinset P k hidle hP hmode hk hcfg hbusy
  rw [exec_configure hidle, configureIssue_valid hP (modeOf_of_le hmode) hk,
    if_pos (State.configBusy_iff.mpr ⟨hcfg, hbusy⟩)]
  rfl

end Sys2Proof.Machine
end

section
/-! The phases of TRANSMIT, RECEIVE and EXCHANGE, one equation for each outcome, and what the transfers leave of their
port (`41_transfer.md`). -/

namespace Sys2Proof.Machine

/-! ### The operations of a phase -/

/-- The success step of a LockTake takes the lock and changes nothing else. -/
theorem Port.lockTake_eq_some_iff {P P' : Port} :
    P.lockTake = some P' ↔ P.taken = false ∧ P' = { P with taken := true } := by
  cases h : P.taken with
  | false => simp [Port.lockTake_available h, eq_comm]
  | true => simp [Port.lockTake_taken h]

/-- A push to TXQ that succeeds appends the byte and changes nothing else. -/
theorem Port.pushTx_eq_some_iff {P P' : Port} {n : Nat} {b : Byte} :
    P.pushTx n b = some P' ↔ P.txq.length < n ∧ P' = { P with txq := P.txq ++ [b] } := by
  simp [Port.pushTx_eq, eq_comm]

theorem Port.enableIrq_transmit (P : Port) : P.enableIrq .transmit = { P with txeie := true, errie := true } := by
  simp [Port.enableIrq, IrqSet.transmit]

theorem Port.disableIrq_transmit (P : Port) : P.disableIrq .transmit = { P with txeie := false, errie := false } := by
  simp [Port.disableIrq, IrqSet.transmit]

theorem Port.enableIrq_receive (P : Port) : P.enableIrq .receive = { P with rxneie := true, errie := true } := by
  simp [Port.enableIrq, IrqSet.receive]

theorem Port.disableIrq_receive (P : Port) : P.disableIrq .receive = { P with rxneie := false, errie := false } := by
  simp [Port.disableIrq, IrqSet.receive]

/-! ### What a transfer leaves of its port (rules R203, R210 and R220) -/

/-- TXBUF, RXBUF and SHIFT are as they were or as Stop leaves them (`44_peripheral.md` rule R305). -/
def Port.keptOrStopped (P P' : Port) : Prop :=
  (P'.txbuf = P.txbuf ∨ P'.txbuf = none) ∧ (P'.rxbuf = P.rxbuf ∨ P'.rxbuf = none) ∧
    (P'.shift = P.shift ∨ P'.shift = P.shift.map fun f => ⟨f.mosi, false, f.csStart⟩)

/-- Only fields of TRANSMIT have changed. -/
def Port.changesTransmit (P P' : Port) : Prop :=
  P' = { P with
    txq := P'.txq
    txeie := P'.txeie
    errie := P'.errie
    spe := P'.spe
    taken := P'.taken
    txbuf := P'.txbuf
    rxbuf := P'.rxbuf
    shift := P'.shift } ∧
  P.keptOrStopped P'

/-- Only fields of RECEIVE have changed, and RXQ is as it was or empty. -/
def Port.changesReceive (P P' : Port) : Prop :=
  P' = { P with
    rxcnt := P'.rxcnt
    fill := P'.fill
    rxq := P'.rxq
    rxneie := P'.rxneie
    errie := P'.errie
    spe := P'.spe
    taken := P'.taken
    txbuf := P'.txbuf
    rxbuf := P'.rxbuf
    shift := P'.shift } ∧
  (P'.rxq = P.rxq ∨ P'.rxq = []) ∧ P.keptOrStopped P'

/-- Only fields of EXCHANGE have changed, and RXQ is as it was or empty. -/
def Port.changesExchange (P P' : Port) : Prop :=
  P' = { P with
    csLevel := P'.csLevel
    rxcnt := P'.rxcnt
    fill := P'.fill
    txq := P'.txq
    rxq := P'.rxq
    txeie := P'.txeie
    rxneie := P'.rxneie
    errie := P'.errie
    spe := P'.spe
    taken := P'.taken
    txbuf := P'.txbuf
    rxbuf := P'.rxbuf
    shift := P'.shift } ∧
  (P'.rxq = P.rxq ∨ P'.rxq = []) ∧ P.keptOrStopped P'

theorem Port.keptOrStopped.refl (P : Port) : P.keptOrStopped P := ⟨.inl rfl, .inl rfl, .inl rfl⟩

theorem Port.stop_keptOrStopped (P : Port) : P.keptOrStopped P.stop := ⟨.inr rfl, .inr rfl, .inr rfl⟩

/-- EXCHANGE may change what TRANSMIT changes. -/
theorem Port.changesTransmit.exchange {P P' : Port} (h : P.changesTransmit P') : P.changesExchange P' := by
  obtain ⟨he, hk⟩ := h
  exact ⟨by rw [he], .inl (by rw [he]), hk⟩

/-- EXCHANGE may change what RECEIVE changes. -/
theorem Port.changesReceive.exchange {P P' : Port} (h : P.changesReceive P') : P.changesExchange P' := by
  obtain ⟨he, hq, hk⟩ := h
  exact ⟨by rw [he], hq, hk⟩

theorem txPhase_changes (qcap : Nat) (t : TxPhase) (l : Locals) (P : Port) :
    P.changesTransmit (txPhase qcap t l P).1 := by
  cases t with
  | tx1 | tx5 =>
    simp only [txPhase]
    split
    case h_1 h =>
      obtain ⟨-, rfl⟩ := Port.lockTake_eq_some_iff.mp h
      exact ⟨rfl, .refl P⟩
    case h_2 => exact ⟨rfl, .refl P⟩
  | tx2 =>
    simp only [txPhase]
    split
    case h_1 => exact ⟨rfl, .refl P⟩
    case h_2 =>
      split
      case h_1 h =>
        obtain ⟨-, rfl⟩ := Port.pushTx_eq_some_iff.mp h
        exact ⟨rfl, .refl P⟩
      case h_2 => exact ⟨rfl, .refl P⟩
  | tx3 =>
    simp only [txPhase, P.enableIrq_transmit]
    exact ⟨rfl, .refl P⟩
  | txa1 =>
    simp only [txPhase, P.disableIrq_transmit]
    exact ⟨rfl, .refl P⟩
  | txa2 => exact ⟨rfl, P.stop_keptOrStopped⟩
  | tx4 | tx6 | txf1 | txf2 | txa3 | txa4 => exact ⟨rfl, .refl P⟩

theorem rxPhase_changes (n : BitVec 16) (f : Byte) (r : RxPhase) (l : Locals) (P : Port) :
    P.changesReceive (rxPhase n f r l P).1 := by
  cases r with
  | rx1 | rx5 =>
    simp only [rxPhase]
    split
    case h_1 h =>
      obtain ⟨-, rfl⟩ := Port.lockTake_eq_some_iff.mp h
      exact ⟨rfl, .inl rfl, .refl P⟩
    case h_2 => exact ⟨rfl, .inl rfl, .refl P⟩
  | rx3 =>
    simp only [rxPhase, P.enableIrq_receive]
    exact ⟨rfl, .inl rfl, .refl P⟩
  | rxa1 =>
    simp only [rxPhase, P.disableIrq_receive]
    exact ⟨rfl, .inl rfl, .refl P⟩
  | rxa2 => exact ⟨rfl, .inl rfl, P.stop_keptOrStopped⟩
  | rx6 | rxa3 => exact ⟨rfl, .inr rfl, .refl P⟩
  | rx2 | rx4 | rx7 | rxa4 => exact ⟨rfl, .inl rfl, .refl P⟩

theorem exPhase_changes (qcap : Nat) (n : BitVec 16) (ph : Phase) (l : Locals) (P : Port) :
    P.changesExchange (exPhase qcap n ph l P).1 := by
  cases ph with
  | tx t => exact (txPhase_changes qcap t l P).exchange
  | rx r => exact (rxPhase_changes n 0 r l P).exchange
  | ex1 | ex5 => exact ⟨rfl, .inl rfl, .refl P⟩

/-- A transfer's step leaves its port as it is, or takes a phase of the transfer on it. -/
theorem exec_transfer_port {s t : State} {i : Instr} {P P' : Port} (ht : i.isTransfer = true) (h : exec i s = .next t)
    (hP : s.hasPort i.port P) (hP' : t.hasPort i.port P') :
    P' = P ∨ ∃ ph l, ph.fits i = true ∧ P' = (phaseStep s.params.qcap i ph l P).1 := by
  obtain ⟨C, -, he⟩ := exec_command (isCommand_of_isTransfer ht) h
  cases he with
  | rejects | faults | starts | refuses => exact .inl (Option.some.inj (hP'.symm.trans hP))
  | completes _ _ _ _ _ _ hn => cases ht.symm.trans hn
  | phase ph l _ Q hQ _ hf =>
    cases hP.symm.trans hQ
    rw [State.hasPort, State.follow_ports] at hP'
    exact .inr ⟨ph, l, hf, Option.some.inj (hP'.symm.trans (State.ports_setPort_self _ hP))⟩

/-- Settles O28: the only steps of TRANSMIT that write its port are its phases, and each writes its fields alone. -/
theorem transmitFrame : Obligations.TransmitFrame := by
  intro s t p b P P' h hP hP'
  obtain rfl | ⟨ph, l, hf, rfl⟩ := exec_transfer_port rfl h hP hP'
  · exact ⟨rfl, Port.keptOrStopped.refl _⟩
  · cases ph with
    | tx t => exact txPhase_changes _ t l P
    | _ => cases hf

/-- Settles O29: the only steps of RECEIVE that write its port are its phases, and each writes its fields alone. -/
theorem receiveFrame : Obligations.ReceiveFrame := by
  intro s t p n f P P' h hP hP'
  obtain rfl | ⟨ph, l, hf, rfl⟩ := exec_transfer_port rfl h hP hP'
  · exact ⟨rfl, .inl rfl, Port.keptOrStopped.refl _⟩
  · cases ph with
    | rx r => exact rxPhase_changes n f r l P
    | _ => cases hf

/-- Settles O30: a phase of EXCHANGE drives the line or is a phase of TRANSMIT or RECEIVE. -/
theorem exchangeFrame : Obligations.ExchangeFrame := by
  intro s t p b n P P' h hP hP'
  obtain rfl | ⟨ph, l, -, rfl⟩ := exec_transfer_port rfl h hP hP'
  · exact ⟨rfl, .inl rfl, Port.keptOrStopped.refl _⟩
  · exact exPhase_changes _ n ph l P

/-! ### The issuing step (rule R200) -/

theorem prologue_configured {i : Instr} {s : State} {P : Port} (onPass : Port → State) (hP : s.hasPort i.port P)
    (hcfg : P.configured = true) : prologue i s onPass = onPass P := by
  rw [State.hasPort] at hP
  simp [prologue, hP, hcfg]

/-- A transfer that passes its prologue goes on to its first phase. -/
theorem exec_transfer_start {s : State} {i : Instr} {P : Port} (ht : i.isTransfer = true) (hidle : s.actorIdle)
    (hP : s.hasPort i.port P) (hcfg : P.configured = true) :
    exec i s = .next (s.setCtl s.actor (.busy i (firstPhase i).1 (firstPhase i).2)) := by
  obtain ⟨C, hC, hc⟩ := hidle
  cases i with
  | transmit | receive | exchange =>
    exact (commandStep_idle hC hc).trans (congrArg _ (prologue_configured _ hP hcfg))
  | _ => cases ht

/-- Settles O20: the first phase of each transfer, with its fresh temporaries. -/
theorem transfersStart : Obligations.TransfersStart := by
  intro s p P hidle hP hcfg
  exact ⟨fun _ => exec_transfer_start rfl hidle hP hcfg, fun _ _ => exec_transfer_start rfl hidle hP hcfg,
    fun _ _ => exec_transfer_start rfl hidle hP hcfg⟩

/-! ### The step of a phase (`00_scope.md` rule R28) -/

section
variable {s : State} {i : Instr} {ph : Phase} {l : Locals} {P P' : Port}

/-- A Busy caller's step of its transfer is its phase. -/
theorem exec_phase (hf : ph.fits i = true) (hP : s.hasPort i.port P) (hb : s.actorBusy i ph l) :
    exec i s = .next ((s.setPort i.port.toNat (phaseStep s.params.qcap i ph l P).1).follow s.actor i
      (phaseStep s.params.qcap i ph l P).2) := by
  obtain ⟨C, hC, hc⟩ := hb
  cases i with
  | transmit =>
    cases ph with
    | tx => exact (commandStep_busy hC hc).trans (onPort_some hP)
    | _ => cases hf
  | receive =>
    cases ph with
    | rx => exact (commandStep_busy hC hc).trans (onPort_some hP)
    | _ => cases hf
  | exchange => exact (commandStep_busy hC hc).trans (onPort_some hP)
  | _ => cases ph <;> cases hf

theorem exec_phase_goto {ph' : Phase} {l' : Locals} (hf : ph.fits i = true) (hP : s.hasPort i.port P)
    (hb : s.actorBusy i ph l) (h : phaseStep s.params.qcap i ph l P = (P', .goto ph' l')) :
    exec i s = .next ((s.setPort i.port.toNat P').setCtl s.actor (.busy i ph' l')) := by
  rw [exec_phase hf hP hb, h]
  rfl

theorem exec_phase_ret {r : CommandResult} (hf : ph.fits i = true) (hP : s.hasPort i.port P)
    (hb : s.actorBusy i ph l) (h : phaseStep s.params.qcap i ph l P = (P', .ret r)) :
    exec i s = .next ((s.setPort i.port.toNat P').returnResult s.actor r) := by
  rw [exec_phase hf hP hb, h]
  rfl

/-- A phase that ends its transfer and leaves the port as it is writes no port. -/
theorem exec_phase_ret_same {r : CommandResult} (hf : ph.fits i = true) (hP : s.hasPort i.port P)
    (hb : s.actorBusy i ph l) (h : phaseStep s.params.qcap i ph l P = (P, .ret r)) :
    exec i s = .next (s.returnResult s.actor r) := by
  rw [exec_phase_ret hf hP hb h, State.setPort_same hP]

end

/-! ### The phases of TRANSMIT (rules R201 to R205) -/

section
variable (qcap : Nat) {l : Locals} {P : Port}

theorem txPhase_tx1_empty (ht : P.taken = false) (hl : l.remaining = []) :
    txPhase qcap .tx1 l P = ({ P with taken := true }, .goto (.tx .tx3) l) := by
  simp only [txPhase, Port.lockTake_available ht, if_pos hl]

theorem txPhase_tx1_bytes (ht : P.taken = false) (hl : l.remaining ≠ []) :
    txPhase qcap .tx1 l P = ({ P with taken := true }, .goto (.tx .tx2) l) := by
  simp only [txPhase, Port.lockTake_available ht, if_neg hl]

theorem txPhase_tx1_timeout (ht : P.taken = true) : txPhase qcap .tx1 l P = (P, .ret (.plain .timeout)) := by
  simp only [txPhase, Port.lockTake_taken ht]

theorem txPhase_tx2_room {b : Byte} {rest : List Byte} (hl : l.remaining = b :: rest) (hroom : P.txq.length < qcap) :
    txPhase qcap .tx2 l P = ({ P with txq := P.txq ++ [b] },
      .goto (.tx (if rest = [] then .tx3 else .tx2)) { l with remaining := rest }) := by
  simp only [txPhase, hl, Port.pushTx_eq, if_pos hroom]

theorem txPhase_tx2_full {b : Byte} {rest : List Byte} (hl : l.remaining = b :: rest) (hfull : qcap ≤ P.txq.length) :
    txPhase qcap .tx2 l P = (P, .goto (.tx .txf1) l) := by
  simp only [txPhase, hl, Port.pushTx_eq, if_neg (Nat.not_lt.mpr hfull)]

theorem txPhase_tx3 (l : Locals) (P : Port) :
    txPhase qcap .tx3 l P = ({ P with txeie := true, errie := true }, .goto (.tx .tx4) l) := by
  rw [txPhase, P.enableIrq_transmit]

theorem txPhase_tx5_available (ht : P.taken = false) :
    txPhase qcap .tx5 l P = ({ P with taken := true }, .goto (.tx .tx6) l) := by
  simp only [txPhase, Port.lockTake_available ht]

theorem txPhase_tx5_timeout (ht : P.taken = true) : txPhase qcap .tx5 l P = (P, .goto (.tx .txa1) l) := by
  simp only [txPhase, Port.lockTake_taken ht]

theorem txPhase_txa1 (l : Locals) (P : Port) :
    txPhase qcap .txa1 l P = ({ P with txeie := false, errie := false }, .goto (.tx .txa2) l) := by
  rw [txPhase, P.disableIrq_transmit]

end

/-- Settles O21: a phase's step is that phase on the port and the caller, and each phase has its equation. -/
theorem transmitPhases : Obligations.TransmitPhases := by
  intro s p b l P hP
  dsimp only
  refine ⟨fun hb ht hl => ?tx1Empty, fun hb ht hl => ?tx1Bytes, fun hb ht => ?tx1Timeout,
    fun h rest hb hl hroom => ?tx2Room, fun h rest hb hl hfull => ?tx2Full, fun hb => ?tx3, fun hb => ?tx4,
    fun hb ht => ?tx5Available, fun hb ht => ?tx5Timeout, fun hb => ?tx6, fun hb => ?txf1, fun hb => ?txf2,
    fun hb => ?txa1, fun hb => ?txa2, fun hb => ?txa3, fun hb => ?txa4⟩
  case tx1Empty => exact exec_phase_goto rfl hP hb (txPhase_tx1_empty s.params.qcap ht hl)
  case tx1Bytes => exact exec_phase_goto rfl hP hb (txPhase_tx1_bytes s.params.qcap ht hl)
  case tx1Timeout => exact exec_phase_ret_same rfl hP hb (txPhase_tx1_timeout s.params.qcap ht)
  case tx2Room => exact exec_phase_goto rfl hP hb (txPhase_tx2_room s.params.qcap hl hroom)
  case tx2Full => exact exec_phase_goto rfl hP hb (txPhase_tx2_full s.params.qcap hl hfull)
  case tx3 => exact exec_phase_goto rfl hP hb (txPhase_tx3 s.params.qcap l P)
  case tx5Available => exact exec_phase_goto rfl hP hb (txPhase_tx5_available s.params.qcap ht)
  case tx5Timeout => exact exec_phase_goto rfl hP hb (txPhase_tx5_timeout s.params.qcap ht)
  case txa1 => exact exec_phase_goto rfl hP hb (txPhase_txa1 s.params.qcap l P)
  case tx4 | txf1 | txa2 | txa3 => exact exec_phase_goto rfl hP hb rfl
  case tx6 | txf2 | txa4 => exact exec_phase_ret rfl hP hb rfl

/-! ### The phases of RECEIVE (rules R201, R202 and R210 to R212) -/

section
variable (n : BitVec 16) (f : Byte) {l : Locals} {P : Port}

theorem rxPhase_rx1_available (ht : P.taken = false) :
    rxPhase n f .rx1 l P = ({ P with taken := true }, .goto (.rx .rx2) l) := by
  simp only [rxPhase, Port.lockTake_available ht]

theorem rxPhase_rx1_timeout (ht : P.taken = true) : rxPhase n f .rx1 l P = (P, .ret (.plain .timeout)) := by
  simp only [rxPhase, Port.lockTake_taken ht]

theorem rxPhase_rx3 (l : Locals) (P : Port) :
    rxPhase n f .rx3 l P = ({ P with rxneie := true, errie := true }, .goto (.rx .rx4) l) := by
  rw [rxPhase, P.enableIrq_receive]

theorem rxPhase_rx5_available (ht : P.taken = false) :
    rxPhase n f .rx5 l P = ({ P with taken := true }, .goto (.rx .rx6) l) := by
  simp only [rxPhase, Port.lockTake_available ht]

theorem rxPhase_rx5_timeout (ht : P.taken = true) : rxPhase n f .rx5 l P = (P, .goto (.rx .rxa1) l) := by
  simp only [rxPhase, Port.lockTake_taken ht]

theorem rxPhase_rxa1 (l : Locals) (P : Port) :
    rxPhase n f .rxa1 l P = ({ P with rxneie := false, errie := false }, .goto (.rx .rxa2) l) := by
  rw [rxPhase, P.disableIrq_receive]

end

/-- Settles O22: a phase's step is that phase on the port and the caller, and each phase has its equation. -/
theorem receivePhases : Obligations.ReceivePhases := by
  intro s p n f l P hP
  dsimp only
  refine ⟨fun hb ht => ?rx1Available, fun hb ht => ?rx1Timeout, fun hb => ?rx2, fun hb => ?rx3, fun hb => ?rx4,
    fun hb ht => ?rx5Available, fun hb ht => ?rx5Timeout, fun hb => ?rx6, fun hb => ?rx7, fun hb => ?rxa1,
    fun hb => ?rxa2, fun hb => ?rxa3, fun hb => ?rxa4⟩
  case rx1Available => exact exec_phase_goto rfl hP hb (rxPhase_rx1_available n f ht)
  case rx1Timeout => exact exec_phase_ret_same rfl hP hb (rxPhase_rx1_timeout n f ht)
  case rx3 => exact exec_phase_goto rfl hP hb (rxPhase_rx3 n f l P)
  case rx5Available => exact exec_phase_goto rfl hP hb (rxPhase_rx5_available n f ht)
  case rx5Timeout => exact exec_phase_goto rfl hP hb (rxPhase_rx5_timeout n f ht)
  case rxa1 => exact exec_phase_goto rfl hP hb (rxPhase_rxa1 n f l P)
  case rx2 | rx4 | rx6 | rxa2 | rxa3 => exact exec_phase_goto rfl hP hb rfl
  case rx7 | rxa4 => exact exec_phase_ret rfl hP hb rfl

/-! ### The phases of EXCHANGE (rules R220 and R221) -/

section
variable (qcap : Nat) (n : BitVec 16) {l l' : Locals} {ph : Phase} {r : CommandResult} {P : Port}

theorem exPhase_tx_goto {t : TxPhase} (h : (txPhase qcap t l P).2 = .goto ph l') :
    exPhase qcap n (.tx t) l P = ((txPhase qcap t l P).1, .goto ph l') := by
  rw [exPhase, h, exchangeAfterTx]

theorem exPhase_tx_ok {t : TxPhase} (h : (txPhase qcap t l P).2 = .ret r) (hr : r.status = .ok) :
    exPhase qcap n (.tx t) l P = ((txPhase qcap t l P).1, .goto (.rx .rx1) { l with sub := .ok }) := by
  rw [exPhase, h, exchangeAfterTx, if_pos hr]

theorem exPhase_tx_failed {t : TxPhase} (h : (txPhase qcap t l P).2 = .ret r) (hr : r.status ≠ .ok) :
    exPhase qcap n (.tx t) l P = ((txPhase qcap t l P).1, .goto .ex5 { l with sub := r.status, data := [] }) := by
  rw [exPhase, h, exchangeAfterTx, if_neg hr]

theorem exPhase_rx_goto {t : RxPhase} (h : (rxPhase n 0 t l P).2 = .goto ph l') :
    exPhase qcap n (.rx t) l P = ((rxPhase n 0 t l P).1, .goto ph l') := by
  rw [exPhase, h, exchangeAfterRx]

theorem exPhase_rx_ret {t : RxPhase} (h : (rxPhase n 0 t l P).2 = .ret r) :
    exPhase qcap n (.rx t) l P = ((rxPhase n 0 t l P).1, .goto .ex5 { l with sub := r.status, data := r.data }) := by
  rw [exPhase, h, exchangeAfterRx]

end

/-- Settles O23: a phase's step is that phase on the port and the caller, and the flow of an inner phase is that of its
own transfer, its end sent on to RX1 or EX5. -/
theorem exchangePhases : Obligations.ExchangePhases := by
  intro s p b n l P hP
  dsimp only
  exact ⟨fun hb => exec_phase_goto rfl hP hb rfl,
    fun t ph l' hb h => exec_phase_goto rfl hP hb (exPhase_tx_goto s.params.qcap n h),
    fun t r hb h hr => exec_phase_goto rfl hP hb (exPhase_tx_ok s.params.qcap n h hr),
    fun t r hb h hr => exec_phase_goto rfl hP hb (exPhase_tx_failed s.params.qcap n h hr),
    fun t ph l' hb h => exec_phase_goto rfl hP hb (exPhase_rx_goto s.params.qcap n h),
    fun t r hb h => exec_phase_goto rfl hP hb (exPhase_rx_ret s.params.qcap n h),
    fun hb => exec_phase_ret rfl hP hb rfl⟩

end Sys2Proof.Machine
end

section
/-! The interrupt handler: its four branches on the port's record, what they leave of it, and the firing that runs one
(`42_interrupt_handler.md`). -/

namespace Sys2Proof.Machine

/-! ### The branches on a port record (rules R262 to R274) -/

/-- The end of a TRANSMIT in the handler (rule R264). -/
theorem Port.completeTransfer_transmit (P : Port) : P.completeTransfer .transmit = { P with
    txeie := false
    errie := false
    spe := false
    txbuf := none
    rxbuf := none
    shift := P.shift.map fun f => ⟨f.mosi, false, f.csStart⟩
    taken := false } := by
  rw [Port.completeTransfer, P.disableIrq_transmit]
  rfl

/-- The end of a RECEIVE in the handler (rule R267). -/
theorem Port.completeTransfer_receive (P : Port) : P.completeTransfer .receive = { P with
    rxneie := false
    errie := false
    spe := false
    txbuf := none
    rxbuf := none
    shift := P.shift.map fun f => ⟨f.mosi, false, f.csStart⟩
    taken := false } := by
  rw [Port.completeTransfer, P.disableIrq_receive]
  rfl

theorem Port.isrTxe_of_cons {P : Port} {b : Byte} {q : List Byte} (h : P.txq = b :: q) :
    P.isrTxe = { P with txq := q, txbuf := some b, drlog := P.drlog ++ [b] } := by
  rw [Port.isrTxe, h]
  rfl

theorem Port.isrTxe_of_nil {P : Port} (h : P.txq = []) : P.isrTxe = P.completeTransfer .transmit := by
  rw [Port.isrTxe, h]
  rfl

/-- While bytes remain after this one, it is offered to RXQ. -/
theorem Port.countReceived_of_ne_zero {P : Port} {params : Params} (b : Byte)
    (h : decCount params.underflow P.rxcnt ≠ 0) : P.countReceived params b = { P with
      rxcnt := decCount params.underflow P.rxcnt
      rxq := if P.rxq.length < params.qcap then P.rxq ++ [b] else P.rxq } := by
  simp only [Port.countReceived, if_pos h, Port.pushRx_eq]

/-- When none remain, the RECEIVE is complete, and the byte is offered only under ENQUEUE_FINAL_RX. -/
theorem Port.countReceived_of_eq_zero {P : Port} {params : Params} (b : Byte)
    (h : decCount params.underflow P.rxcnt = 0) : P.countReceived params b = { P with
      rxcnt := 0
      rxq := if params.enqueueFinalRx then if P.rxq.length < params.qcap then P.rxq ++ [b] else P.rxq
        else P.rxq }.completeTransfer .receive := by
  simp only [Port.countReceived, h, ne_eq, not_true_eq_false, if_false, Port.pushRx_eq]
  cases params.enqueueFinalRx <;> rfl

theorem handlerStep_isrRxne {P : Port} {b : Byte} (params : Params) (p : PortId) (h : P.rxbuf = some b) :
    handlerStep params (.isrRxne p) P = some ({ P with rxbuf := none }.countReceived params b) := by
  simp [handlerStep, Port.readData, h]

/-! ### A branch of the handler on the state -/

/-- A branch that gives its port a record writes that record and completes: `exec_handler` the other way. -/
theorem exec_of_handlerStep {s : State} {i : Instr} {P P' : Port} (hP : s.hasPort i.port P)
    (h : handlerStep s.params i P = some P') : exec i s = .next (s.setPort i.port.toNat P') := by
  rcases handlerStep_cases h with ⟨⟨p, rfl⟩, rfl⟩ | ⟨⟨p, rfl⟩, b, hb, rfl⟩ | ⟨⟨p, rfl⟩, rfl⟩ | ⟨⟨p, rfl⟩, rfl⟩
  · exact onPort_some hP
  · exact (onPort_some hP).trans (by simp [Port.readData, hb])
  · exact onPort_some hP
  · exact (onPort_some hP).trans (congrArg _ (State.setPort_same hP).symm)

/-- ISR_NONE skips (rule R274). -/
theorem exec_isrNone {s : State} {p : PortId} {P : Port} (hP : s.hasPort p P) : exec (.isrNone p) s = .next s :=
  onPort_some hP

/-- Settles O31: the branch is `Port.isrTxe`, with TXQ holding a byte and empty. -/
theorem isrTxeMovesByteOrCompletes : Obligations.IsrTxeMovesByteOrCompletes := by
  intro s p P hP
  have hx : exec (.isrTxe p) s = .next (s.setPort p.toNat P.isrTxe) := exec_of_handlerStep (i := .isrTxe p) hP rfl
  constructor
  · intro b q hq
    rw [hx, Port.isrTxe_of_cons hq]
  · intro hq
    rw [hx, Port.isrTxe_of_nil hq, Port.completeTransfer_transmit]

/-- Settles O32: the branch counts the byte read, and the statement's `n` is the count of rule R266. -/
theorem isrRxneCountsByte : Obligations.IsrRxneCountsByte := by
  intro s p P b hP hb n offered
  have hx : exec (.isrRxne p) s = .next (s.setPort p.toNat ({ P with rxbuf := none }.countReceived s.params b)) :=
    exec_of_handlerStep (i := .isrRxne p) hP (handlerStep_isrRxne s.params p hb)
  have hn : decCount s.params.underflow P.rxcnt = n := rfl
  constructor
  · intro h
    rw [hx, Port.countReceived_of_ne_zero (P := { P with rxbuf := none }) b (hn.trans_ne h)]
    rfl
  · intro h
    rw [hx, Port.countReceived_of_eq_zero (P := { P with rxbuf := none }) b (hn.trans h),
      Port.completeTransfer_receive]

/-- Settles O33: the two branches that read no queue. -/
theorem isrModfRestartsIsrNoneSkips : Obligations.IsrModfRestartsIsrNoneSkips := by
  intro s p P hP
  exact ⟨exec_of_handlerStep (i := .isrModf p) hP rfl, exec_isrNone hP⟩

/-! ### What the handler never does (rule R277) -/

/-- What branch `i` may change of its port's record: it releases the lock and disables causes only; TXQ and DRLOG
change by the byte ISR_TXE pops, RXQ and RXCNT by the byte ISR_RXNE reads; and of the other fields it writes SPE, MODF,
TXBUF, RXBUF and SHIFT alone. -/
structure Port.ChangesFiring (params : Params) (i : Instr) (P P' : Port) : Prop where
  fields : P' = { P with
    spe := P'.spe
    txeie := P'.txeie
    rxneie := P'.rxneie
    errie := P'.errie
    modf := P'.modf
    txbuf := P'.txbuf
    rxbuf := P'.rxbuf
    shift := P'.shift
    rxcnt := P'.rxcnt
    taken := P'.taken
    txq := P'.txq
    rxq := P'.rxq
    drlog := P'.drlog }
  taken : P'.taken = true → P.taken = true
  txeie : P'.txeie = true → P.txeie = true
  rxneie : P'.rxneie = true → P.rxneie = true
  errie : P'.errie = true → P.errie = true
  txq : (P'.txq = P.txq ∧ P'.drlog = P.drlog) ∨
    (i = .isrTxe i.port ∧ ∃ b, P.txq = b :: P'.txq ∧ P'.drlog = P.drlog ++ [b])
  rxq : P'.rxq = P.rxq ∨ (i = .isrRxne i.port ∧ ∃ b, P.rxbuf = some b ∧ P'.rxq = P.rxq ++ [b])
  rxcnt : P'.rxcnt = P.rxcnt ∨ (i = .isrRxne i.port ∧ P'.rxcnt = decCount params.underflow P.rxcnt)

theorem Port.isrTxe_changes (params : Params) (p : PortId) (P : Port) :
    P.ChangesFiring params (.isrTxe p) P.isrTxe := by
  cases hq : P.txq with
  | nil =>
    rw [Port.isrTxe_of_nil hq, Port.completeTransfer_transmit]
    exact ⟨rfl, nofun, nofun, id, nofun, .inl ⟨rfl, rfl⟩, .inl rfl, .inl rfl⟩
  | cons b q =>
    rw [Port.isrTxe_of_cons hq]
    exact ⟨rfl, id, id, id, id, .inr ⟨rfl, b, hq, rfl⟩, .inl rfl, .inl rfl⟩

theorem Port.isrRxne_changes {P : Port} {b : Byte} (params : Params) (p : PortId) (hb : P.rxbuf = some b) :
    P.ChangesFiring params (.isrRxne p) ({ P with rxbuf := none }.countReceived params b) := by
  have offered := (ite_eq_or_eq (P.rxq.length < params.qcap) (P.rxq ++ [b]) P.rxq).symm
  by_cases hn : decCount params.underflow P.rxcnt = 0
  · rw [Port.countReceived_of_eq_zero (P := { P with rxbuf := none }) b hn, Port.completeTransfer_receive]
    refine ⟨rfl, nofun, id, nofun, nofun, .inl ⟨rfl, rfl⟩, ?_, .inr ⟨rfl, hn.symm⟩⟩
    dsimp only
    split
    · exact offered.imp_right fun h => ⟨rfl, b, hb, h⟩
    · exact .inl rfl
  · rw [Port.countReceived_of_ne_zero (P := { P with rxbuf := none }) b hn]
    exact ⟨rfl, id, id, id, id, .inl ⟨rfl, rfl⟩, offered.imp_right fun h => ⟨rfl, b, hb, h⟩, .inr ⟨rfl, rfl⟩⟩

theorem handlerStep_changes {params : Params} {i : Instr} {P P' : Port} (h : handlerStep params i P = some P') :
    P.ChangesFiring params i P' := by
  rcases handlerStep_cases h with ⟨⟨p, rfl⟩, rfl⟩ | ⟨⟨p, rfl⟩, b, hb, rfl⟩ | ⟨-, rfl⟩ | ⟨-, rfl⟩
  · exact P.isrTxe_changes params p
  · exact Port.isrRxne_changes params p hb
  · exact ⟨rfl, id, id, id, id, .inl ⟨rfl, rfl⟩, .inl rfl, .inl rfl⟩
  · exact ⟨rfl, id, id, id, id, .inl ⟨rfl, rfl⟩, .inl rfl, .inl rfl⟩

/-- Settles O34: a branch writes one record of its port, as `Port.ChangesFiring` bounds it. -/
theorem handlerFrame : Obligations.HandlerFrame := by
  intro s t i P P' hi h hP hP'
  obtain ⟨Q, X, hQ, hh, rfl⟩ := exec_handler hi h
  obtain rfl : Q = P := Option.some.inj (hQ.symm.trans hP)
  obtain rfl : X = P' := Option.some.inj ((State.ports_setPort_self X hP).symm.trans hP')
  obtain ⟨he, htaken, htxeie, hrxneie, herrie, htxq, hrxq, hrxcnt⟩ := handlerStep_changes hh
  refine ⟨rfl, htaken, htxeie, hrxneie, herrie, htxq, hrxq, hrxcnt, ?_⟩
  rw [he]
  exact ⟨rfl, rfl, rfl, rfl, rfl, rfl, rfl, rfl, rfl, rfl⟩

/-! ### The bytes written to DR and those queued (rules R60 and R263) -/

/-- Writing one port with its sequence kept keeps the sequence of every port. -/
theorem State.sentBytes_of_setPort {u : State} {p q : Nat} {P P' Q X : Port} (hQ : u.ports[q]? = some Q)
    (hX : X.sentBytes = Q.sentBytes) (hP : u.ports[p]? = some P) (h : (u.setPort q X).ports[p]? = some P') :
    P'.sentBytes = P.sentBytes := by
  rcases State.port_of_setPort hQ hP h with rfl | ⟨rfl, rfl, rfl⟩
  · rfl
  · exact hX

/-- A step of any agent but a caller keeps the bytes written and queued of every port. -/
theorem StepEffect.sentBytes_of_not_caller {s t : State} {p : Nat} {P P' : Port} (h : StepEffect s t)
    (hn : ∀ c, s.nextMove ≠ .caller c) (hP : s.ports[p]? = some P) (hP' : t.ports[p]? = some P') :
    P'.sentBytes = P.sentBytes := by
  have same (e : t.ports = s.ports) : P'.sentBytes = P.sentBytes := by
    rw [e, hP] at hP'
    cases hP'
    rfl
  have written {q : Nat} {Q X : Port} (hQ : s.ports[q]? = some Q) (hX : X.sentBytes = Q.sentBytes)
      (e : (s.takeMove.setPort q X).ports[p]? = some P') : P'.sentBytes = P.sentBytes :=
    State.sentBytes_of_setPort (by simpa using hQ) hX (by simpa using hP) e
  cases h with
  | outOfRange => exact same rfl
  | skips | misuse | illegal => exact same (by simp)
  | issues c _ _ _ _ hm => exact absurd hm (hn c)
  | continues c _ _ _ _ _ hm => exact absurd hm (hn c)
  | fires q Q X i hm hQ hd hh => exact written hQ (handlerStep_sentBytes hh) hP'
  | shifts q m Q X hm hQ hx => exact written hQ (Port.periphStep_sentBytes hx) hP'
  | modeFault q Q hm hb hQ => exact written hQ Q.modeFault_sentBytes hP'
  | busError q Q hb hQ => exact written (X := Q.busError) hQ rfl hP'

/-- Settles O52: the sequence is `Port.sentBytes`. -/
theorem onlyCallersChangeQueuedBytes : Obligations.OnlyCallersChangeQueuedBytes := by
  intro s t p P P' hn h hP hP'
  exact (step_effect h).sentBytes_of_not_caller hn hP hP'

/-! ### A firing (rules R260, R261 and R410) -/

/-- A firing of a port whose cause vector selects a branch runs that branch. -/
theorem isrMove_of_selected {s : State} {p : PortId} {P : Port} {i : Instr} (hP : s.hasPort p P)
    (hd : decodeCause p P.cv = some i) : isrMove p.toNat s = exec i s := by
  simp [isrMove, hP, Port.queryCauses, hd]

/-- A firing of a port whose cause vector selects no branch is skipped. -/
theorem isrMove_of_unselected {s : State} {p : PortId} {P : Port} (hP : s.hasPort p P)
    (hd : decodeCause p P.cv = none) : isrMove p.toNat s = .next s := by
  simp [isrMove, hP, Port.queryCauses, hd]

/-- The step whose next move is the ISR's of a port is its firing. -/
theorem step_eq_isrMove {s : State} {p : Nat} (hs : s.takesMove) (hm : s.nextMove = .isr p) :
    step s = isrMove p s.takeMove := by
  rw [step_of_takesMove hs, hm]
  rfl

/-- Settles O42: the firing reads the port's vector at the state with the move taken. -/
theorem stepRunsSelectedBranch : Obligations.StepRunsSelectedBranch := by
  intro s p P hr hp hm hP
  have hP' : s.takeMove.hasPort p P := by simpa [State.hasPort] using hP
  rw [step_eq_isrMove ⟨hr, hp⟩ hm]
  exact ⟨fun i hd => isrMove_of_selected hP' hd, isrMove_of_unselected hP'⟩

/-- Settles O44: the vector 0b1000 selects ISR_NONE, which skips. -/
theorem otherErrorStorm : Obligations.OtherErrorStorm := by
  intro s p P hr hp hm hP hcv
  have hd : decodeCause p P.cv = some (.isrNone p) := by rw [hcv]; rfl
  have hP' : s.takeMove.hasPort p P := by simpa [State.hasPort] using hP
  calc step s = exec (.isrNone p) s.takeMove := (stepRunsSelectedBranch s p P hr hp hm hP).1 _ hd
    _ = .next s.takeMove := exec_isrNone hP'

end Sys2Proof.Machine
end

section
/-! The chip-select commands: each takes one caller step, which passes the prologue and completes
(`43_chip_select.md`). -/

namespace Sys2Proof.Machine

/-- Settles O24: on a port that passes the prologue, the step drives the line and returns OK (rule R290). -/
theorem setCsDrivesLine : Obligations.SetCsDrivesLine := by
  intro s p level P hidle hP hcfg
  obtain ⟨C, hC, hc⟩ := hidle
  exact (commandStep_idle hC hc).trans (congrArg _ (prologue_configured (i := .setCs p level) _ hP hcfg))

/-- Settles O25: on a port that passes the prologue, the step only returns the level driven (rule R291). -/
theorem getCsReturnsLevel : Obligations.GetCsReturnsLevel := by
  intro s p P hidle hP hcfg
  obtain ⟨C, hC, hc⟩ := hidle
  exact (commandStep_idle hC hc).trans (congrArg _ (prologue_configured (i := .getCs p) _ hP hcfg))

end Sys2Proof.Machine
end

section
/-! The register interface, the shift engine and the bus events on a port's record, and the moves that run them
(`44_peripheral.md`). -/

namespace Sys2Proof.Machine

/-! ### The register interface (rules R303 to R307) -/

theorem Port.readData_of_some {P : Port} {m : Byte} (h : P.rxbuf = some m) :
    P.readData = some (m, { P with rxbuf := none }) := by
  simp [Port.readData, h]

theorem Port.readData_of_none {P : Port} (h : P.rxbuf = none) : P.readData = none := by
  simp [Port.readData, h]

/-- EnableIrq sets the named enables and keeps the others: the model's `||` read as a choice. -/
theorem Port.enableIrq_eq (P : Port) (S : IrqSet) : P.enableIrq S = { P with
    txeie := if S.txe then true else P.txeie
    rxneie := if S.rxne then true else P.rxneie
    errie := if S.err then true else P.errie } := by
  simp [Port.enableIrq, Bool.or_comm]

/-- DisableIrq clears the named enables and keeps the others: the model's `&& !` read as a choice. -/
theorem Port.disableIrq_eq (P : Port) (S : IrqSet) : P.disableIrq S = { P with
    txeie := if S.txe then false else P.txeie
    rxneie := if S.rxne then false else P.rxneie
    errie := if S.err then false else P.errie } := by
  simp [Port.disableIrq, Bool.and_comm]

/-- Settles O13: the enables by cases of the set, ReadData by whether RXBUF holds a byte, and the others are their
definitions. -/
theorem registerInterfacePrimitives : Obligations.RegisterInterfacePrimitives := fun P =>
  ⟨rfl, rfl, fun _ => rfl, fun _ => Port.readData_of_some, Port.readData_of_none, P.enableIrq_eq, P.disableIrq_eq, rfl⟩

/-! ### The steps of the shift engine on a port's record (rules R320 to R324) -/

section
variable {P : Port} {f : Shift} {b : Byte} (m : Byte)

theorem Port.periphStep_of_shift (hk : P.clken = true) (hf : P.shift = some f) :
    P.periphStep m = some (P.complete f m) := by
  simp [Port.periphStep, hk, hf]

theorem Port.periphStep_of_txbuf (hk : P.clken = true) (hspe : P.spe = true) (hb : P.txbuf = some b)
    (hf : P.shift = none) : P.periphStep m = some (P.load b) := by
  simp [Port.periphStep, hk, hf, hspe, hb]

theorem Port.periphStep_of_fill (hk : P.clken = true) (hspe : P.spe = true) (hr : P.rxneie = true)
    (ht : P.txbuf = none) (hf : P.shift = none) (hb : P.rxbuf = none) : P.periphStep m = some P.fillFrame := by
  simp [Port.periphStep, hk, hf, hspe, ht, hr, hb]

/-- With no frame in flight the engine waits while the bus is stopped. -/
theorem Port.periphStep_of_stopped (hf : P.shift = none) (hspe : P.spe = false) : P.periphStep m = none := by
  simp [Port.periphStep, hf, hspe]

/-- With no frame in flight and no byte to send the engine waits while no frame is to be filled. -/
theorem Port.periphStep_of_nothingToSend (hf : P.shift = none) (ht : P.txbuf = none)
    (h : P.rxneie = false ∨ P.rxbuf ≠ none) : P.periphStep m = none := by
  rcases h with hr | hb
  · simp [Port.periphStep, hf, ht, hr]
  · simp [Port.periphStep, hf, ht, hb]

theorem Port.complete_of_uncaptured (hc : f.capture = false) : P.complete f m = { P with
    shift := none
    wire := P.wire ++ [⟨f.mosi, none, f.csStart, P.csLevel, .complete⟩] } := by
  simp [Port.complete_eq, hc]

theorem Port.complete_of_captured (hc : f.capture = true) (hb : P.rxbuf = none) : P.complete f m = { P with
    shift := none
    rxbuf := some m
    wire := P.wire ++ [⟨f.mosi, some m, f.csStart, P.csLevel, .complete⟩] } := by
  simp [Port.complete_eq, hc, hb]

/-- The overrun: the byte drawn is in WIRE alone. -/
theorem Port.complete_of_overrun (hc : f.capture = true) (hb : P.rxbuf = some b) : P.complete f m = { P with
    shift := none
    errf := true
    wire := P.wire ++ [⟨f.mosi, some m, f.csStart, P.csLevel, .complete⟩] } := by
  simp [Port.complete_eq, hc, hb]

end

/-! ### The moves of PERIPH and ENV -/

section
variable {s : State} {p : Nat} {m : Byte} {P P' : Port} (hP : s.ports[p]? = some P)
include hP

theorem runMove_periph_of_some (hbr : P.br.toNat ≤ s.params.pmax - s.params.pmin) (h : P.periphStep m = some P') :
    runMove (.periph p m) s = .next (s.setPort p P') := by
  simp [runMove, peripheralMove, hP, h, Port.brInRange, hbr]

theorem runMove_periph_of_none (h : P.periphStep m = none) : runMove (.periph p m) s = .next s := by
  simp [runMove, peripheralMove, hP, h]

/-- A step of the shift engine with a BR code that no rule writes (`10_state.md` rule R36). -/
theorem runMove_periph_of_reserved (hbr : s.params.pmax - s.params.pmin < P.br.toNat) (h : P.periphStep m = some P') :
    runMove (.periph p m) s = .fault .prescalerCodeReserved := by
  simp [runMove, peripheralMove, hP, h, Port.brInRange, hbr]

theorem environmentMove_of_clockOn {event : Port → Port} (hk : P.clken = true) (h : event P = P') :
    environmentMove p event s = s.setPort p P' := by
  simp [environmentMove, hP, hk, h]

end

/-- Settles O35: in each clause the engine's step of the port's record is known, and the move writes it. -/
theorem shiftEngineSteps : Obligations.ShiftEngineSteps := by
  intro s p m P hP hk hbr moves
  have moves_of {P' : Port} (h : P.periphStep m = some P') : moves P' := runMove_periph_of_some hP hbr h
  refine ⟨fun b hspe hb hf => ?load, fun hspe hr ht hf hb => ?fill, fun f hf hc => ?uncaptured,
    fun f hf hc hb => ?captured, fun hf h => runMove_periph_of_none hP ?waits⟩
  case load => exact moves_of (Port.periphStep_of_txbuf m hk hspe hb hf)
  case fill => exact moves_of (Port.periphStep_of_fill m hk hspe hr ht hf hb)
  case uncaptured =>
    rw [← Port.complete_of_uncaptured m hc]
    exact moves_of (Port.periphStep_of_shift m hk hf)
  case captured =>
    rw [← Port.complete_of_captured m hc hb]
    exact moves_of (Port.periphStep_of_shift m hk hf)
  case waits =>
    rcases h with hspe | ⟨ht, hfill⟩
    · exact Port.periphStep_of_stopped m hf hspe
    · exact Port.periphStep_of_nothingToSend m hf ht hfill

/-- Settles O36: the frame completes into a full RXBUF. -/
theorem overrunKeepsOldByte : Obligations.OverrunKeepsOldByte := by
  intro s p m old P f hP hk hbr hf hc hb
  rw [← Port.complete_of_overrun m hc hb]
  exact runMove_periph_of_some hP hbr (Port.periphStep_of_shift m hk hf)

/-- A mode fault, with the frame in flight ended as Aborted (rule R325). -/
theorem Port.modeFault_eq (P : Port) : P.modeFault = { P with
    modf := true
    spe := false
    shift := none
    wire := P.wire ++ (match P.shift with
      | some f => [⟨f.mosi, none, f.csStart, P.csLevel, .aborted⟩]
      | none => []) } :=
  Port.abortFrame_eq _

/-- Settles O37: on a clocked port ENV's move writes the record its event leaves. -/
theorem busEvents : Obligations.BusEvents := by
  intro s p P hP hk
  exact ⟨congrArg _ (environmentMove_of_clockOn hP hk P.modeFault_eq),
    congrArg _ (environmentMove_of_clockOn (event := Port.busError) hP hk rfl)⟩

end Sys2Proof.Machine
end

section
/-! The stops of the model (log entries 8 to 10): what `exec` does of an instruction whose caller, phase or port is
missing. -/

namespace Sys2Proof.Machine

theorem commandStep_missing {i : Instr} {s : State} {onIssue : Host.Outcome State Fault Refusal}
    {onPhase : Phase → Locals → Host.Outcome State Fault Refusal} (h : s.callers[s.actor]? = none) :
    commandStep i s onIssue onPhase = .refused .noSuchCaller := by
  simp [commandStep, h]

theorem commandStep_stopped {i : Instr} {s : State} {C : Caller} {onIssue : Host.Outcome State Fault Refusal}
    {onPhase : Phase → Locals → Host.Outcome State Fault Refusal} (h : s.callers[s.actor]? = some C)
    (hc : C.ctl = .stopped) : commandStep i s onIssue onPhase = .refused .callerStopped := by
  simp [commandStep, h, hc]

theorem onPort_missing {p : PortId} {s : State} {k : Port → Host.Outcome State Fault Refusal}
    (h : s.ports.length ≤ p.toNat) : onPort p s k = .refused .noSuchPort := by
  simp [onPort, List.getElem?_eq_none h]

/-- What a Busy caller's step of its command `i` does at phase `ph`. -/
def phaseOutcome (i : Instr) (s : State) (ph : Phase) (l : Locals) : Host.Outcome State Fault Refusal :=
  if ph.fits i then phaseEffect i s (phaseStep s.params.qcap i ph l) else .fault .phaseOfOtherCommand

/-- Every command is one step of its caller, and a Busy caller's is its phase. -/
theorem exec_eq_commandStep {i : Instr} (s : State) (hi : i.isCommand = true) :
    ∃ onIssue, exec i s = commandStep i s onIssue (phaseOutcome i s) := by
  have of_phases {onIssue onPhase} (h : ∀ ph l, onPhase ph l = phaseOutcome i s ph l) :
      ∃ onIssue', commandStep i s onIssue onPhase = commandStep i s onIssue' (phaseOutcome i s) :=
    ⟨onIssue, congrArg _ (funext fun ph => funext fun l => h ph l)⟩
  cases i with
  | configure | transmit | receive | exchange | setCs | getCs =>
    apply of_phases
    intro ph l
    cases ph <;> rfl
  | _ => cases hi

/-- Every handler branch is an effect on the port it names. -/
theorem exec_eq_onPort {i : Instr} (s : State) (hi : i.isCommand = false) : ∃ k, exec i s = onPort i.port s k := by
  cases i with
  | isrTxe | isrRxne | isrModf | isrNone => exact ⟨_, rfl⟩
  | _ => cases hi

theorem exec_actorBusy {i : Instr} {s : State} {ph : Phase} {l : Locals} (hi : i.isCommand = true)
    (hb : s.actorBusy i ph l) : exec i s = phaseOutcome i s ph l := by
  obtain ⟨C, hC, hc⟩ := hb
  obtain ⟨onIssue, he⟩ := exec_eq_commandStep s hi
  rw [he, commandStep_busy hC hc]

/-- Settles O46: a command's stops are those of its caller and of its phase, and a branch's those of its port. -/
theorem stopsByName : Obligations.StopsByName := by
  intro s
  refine ⟨fun p P hP hb => ?empty, fun p m P hP hbr hk hf => ?reserved, fun i ph l hi hbusy hfits => ?otherPhase,
    fun i ph l ht hbusy hfits hport => ?phasePort, fun i hi hport => ?branchPort, fun i hi hC => ?noCaller,
    fun i C hi hC hc => ?stopped⟩
  case empty =>
    calc exec (.isrRxne p) s = _ := onPort_some hP
      _ = .fault .dataRegisterEmpty := by rw [Port.readData_of_none hb]
  case reserved =>
    obtain ⟨f, hf⟩ := Option.ne_none_iff_exists'.mp hf
    exact runMove_periph_of_reserved hP hbr (Port.periphStep_of_shift m hk hf)
  case otherPhase => rw [exec_actorBusy hi hbusy, phaseOutcome, hfits, if_neg Bool.false_ne_true]
  case phasePort =>
    rw [exec_actorBusy (isCommand_of_isTransfer ht) hbusy, phaseOutcome, if_pos hfits]
    exact onPort_missing hport
  case branchPort =>
    obtain ⟨k, he⟩ := exec_eq_onPort s hi
    rw [he, onPort_missing hport]
  case noCaller =>
    obtain ⟨onIssue, he⟩ := exec_eq_commandStep s hi
    rw [he, commandStep_missing hC]
  case stopped =>
    obtain ⟨onIssue, he⟩ := exec_eq_commandStep s hi
    rw [he, commandStep_stopped hC hc]

end Sys2Proof.Machine
end

section
/-! Exceptions (`60_exceptions.md`): what holds a caller's move back or makes it a fault, what is refused, and the one
outcome of a command. In a state that meets the invariant every other step gives a next state. -/

namespace Sys2Proof.Machine

/-! ### Pending causes hold the callers back (rule R360) -/

theorem Port.pending_of_cv {P : Port} (hcv : P.cv ≠ 0) : P.pending = true := bne_iff_ne.mpr hcv

theorem State.anyPending_of_cv {s : State} {P : Port} (hP : P ∈ s.ports) (hcv : P.cv ≠ 0) : s.anyPending = true :=
  List.any_eq_true.mpr ⟨P, hP, Port.pending_of_cv hcv⟩

/-- A caller's step is enabled when no cause is pending, and the caller is Idle with words to issue, or Busy. -/
theorem State.callerEnabled_iff {s : State} {c : Nat} : s.callerEnabled c = true ↔
    s.anyPending = false ∧ ∃ C, s.callers[c]? = some C ∧
      ((C.ctl = .idle ∧ C.stream ≠ []) ∨ ∃ i ph l, C.ctl = .busy i ph l) := by
  rw [State.callerEnabled, Bool.and_eq_true, Bool.not_eq_true']
  refine and_congr_right fun _ => ?_
  cases s.callers[c]? with
  | none => simp
  | some C => cases hc : C.ctl <;> simp [hc]

/-- The move of a caller with no enabled step changes nothing. -/
theorem callerMove_of_disabled {s : State} {c : Nat} (h : s.callerEnabled c = false) : callerMove c s = .next s := by
  simp [callerMove, h]

/-- Settles O43: a pending cause disables the caller's step, and its move is skipped. -/
theorem pendingCauseHoldsCallers : Obligations.PendingCauseHoldsCallers := by
  intro s c hr hp hm hpend
  obtain ⟨P, hP, hcv⟩ := hpend
  have hany : s.takeMove.anyPending = true := by
    rw [s.takeMove_anyPending]
    exact State.anyPending_of_cv hP hcv
  have hdis : s.takeMove.callerEnabled c = false := by simp [State.callerEnabled, hany]
  rw [step_eq_callerMove ⟨hr, hp⟩ hm, callerMove_of_disabled hdis]

/-! ### Illegal commands (rules R144, R345 and R346) -/

/-- An Idle caller's move whose words are no legal command raises ILLEGAL_COMMAND. -/
theorem callerMove_illegal {s : State} {c : Nat} {C : Caller} {w : Word} {ws : List Word} {e : Illegal}
    (hp : s.anyPending = false) (hC : s.callers[c]? = some C) (hc : C.ctl = .idle) (hs : C.stream = w :: ws)
    (hd : decodeCommand (w :: ws) = .error e) :
    callerMove c s = .next ((s.setActor c).raiseFault .illegalCommand c w) := by
  have he : s.callerEnabled c = true := by
    simp [State.callerEnabled, hp, hC, hc, hs]
  simp [callerMove, he, hC, hc, hs, hd]

/-- A fault whose record is new, by a caller that is there. -/
theorem State.raiseFault_new {s : State} {c : Nat} {C : Caller} {kind : FaultKind} {w : Word}
    (hC : s.callers[c]? = some C) (hnew : (⟨kind, c, w⟩ : FaultRecord) ∉ s.faults) :
    s.raiseFault kind c w = { s with
      faults := s.faults ++ [⟨kind, c, w⟩]
      callers := s.callers.set c { C with ctl := .stopped } } := by
  rw [State.raiseFault, insertFault, if_neg hnew, callers_modify_eq_set _ hC]

/-- Settles O5: the enabled move of an Idle caller whose words do not decode, with a record that is new. -/
theorem illegalCommandFaults : Obligations.IllegalCommandFaults := by
  intro s c C w ws e hr hp hm hq hC hc hs hd hnew
  have hC' : (s.takeMove.setActor c).callers[c]? = some C := by simpa using hC
  calc step s = callerMove c s.takeMove := step_eq_callerMove ⟨hr, hp⟩ hm
    _ = .next ((s.takeMove.setActor c).raiseFault .illegalCommand c w) :=
      callerMove_illegal (by simpa using hq) (by simpa using hC) hc hs hd
    _ = _ := by
      rw [State.raiseFault_new hC' (by simpa using hnew)]
      simp [State.setActor]

/-! ### The prologue (rules R342 and R347) -/

/-- The issuing step of every command but CONFIGURE is its prologue. -/
theorem exec_eq_prologue {s : State} {i : Instr} (hi : i.isCommand = true)
    (hne : ∀ p m b cs ps, i ≠ .configure p m b cs ps) (hidle : s.actorIdle) :
    ∃ onPass, exec i s = .next (prologue i s onPass) := by
  obtain ⟨C, hC, hc⟩ := hidle
  cases i with
  | configure p m b cs ps => exact absurd rfl (hne p m b cs ps)
  | transmit | receive | exchange | setCs | getCs => exact ⟨_, commandStep_idle hC hc⟩
  | _ => cases hi

theorem prologue_missing {i : Instr} {s : State} (onPass : Port → State) (h : s.ports.length ≤ i.port.toNat) :
    prologue i s onPass = s.returnResult s.actor (.plain .invalidArgument) := by
  simp [prologue, List.getElem?_eq_none h]

theorem prologue_unconfigured {i : Instr} {s : State} {P : Port} (onPass : Port → State) (hP : s.hasPort i.port P)
    (hcfg : P.configured = false) : prologue i s onPass = s.raiseFault .unconfigured s.actor i.word0 := by
  rw [State.hasPort] at hP
  simp [prologue, hP, hcfg]

/-- Settles O19: the issuing step is the prologue, which stops at the port or at CONFIGURED. -/
theorem prologueChecksPort : Obligations.PrologueChecksPort := by
  intro s i hi hne hidle
  obtain ⟨onPass, he⟩ := exec_eq_prologue hi hne hidle
  constructor
  · intro hport
    rw [he, prologue_missing onPass hport]
    rfl
  · intro P hP hcfg
    rw [he, prologue_unconfigured onPass hP hcfg]

/-! ### Refusals (rule R349) -/

/-- A refused run takes no step. -/
theorem step_of_refused {s : State} (h : s.refused = true) : step s = .refused .runRefused := by
  simp [step, nextStep, h]

/-- A step of a model with a parameter out of range is refused (rule R349 (c)). -/
theorem step_of_outOfRange {s : State} (hr : s.refused = false) (hp : s.paramsInRange = false) :
    step s = .next s.refuse := by
  simp [step, nextStep, hr, hp]

/-- The ranges of `00_scope.md` section 4. -/
theorem State.paramsInRange_iff {s : State} : s.paramsInRange = true ↔
    (1 ≤ s.ports.length ∧ s.ports.length ≤ 16) ∧ 1 ≤ s.callers.length ∧
      (1 ≤ s.params.qcap ∧ s.params.qcap ≤ 65535) ∧ (s.params.fbus.length = s.ports.length ∧ 0 ∉ s.params.fbus) ∧
      s.params.pmin ≤ s.params.pmax ∧ s.params.pmax ≤ s.params.pmin + 7 := by
  have hfbus : s.params.fbus.all (fun f => f != 0) = true ↔ 0 ∉ s.params.fbus := by
    simp only [List.all_eq_true, bne_iff_ne]
    exact ⟨fun h h0 => h 0 h0 rfl, fun h f hf e => h (e ▸ hf)⟩
  simp only [State.paramsInRange, State.numPorts, State.numCallers, Bool.and_eq_true, decide_eq_true_eq, hfbus,
    and_assoc]

theorem step_eq_runMove {s : State} {m : Move} (hs : s.takesMove) (hm : s.nextMove = m) :
    step s = runMove m s.takeMove := by
  rw [step_of_takesMove hs, hm]

/-- A command of interrupt context while a firing is due (rule R349 (a)). -/
theorem callFromInterruptMove_of_cv {s : State} {p : Nat} {P : Port} (hP : s.ports[p]? = some P) (hcv : P.cv ≠ 0) :
    callFromInterruptMove p s = s.refuse := by
  simp [callFromInterruptMove, hP, Port.pending_of_cv hcv]

/-- A second command of a Busy caller, as a move (rule R349 (b)). -/
theorem callWhileBusyMove_of_busy {s : State} {c : Nat} {C : Caller} {i : Instr} {ph : Phase} {l : Locals}
    (hC : s.callers[c]? = some C) (hc : C.ctl = .busy i ph l) : callWhileBusyMove c s = s.refuse := by
  simp [callWhileBusyMove, hC, hc]

theorem commandStep_otherBusy {i cmd : Instr} {s : State} {C : Caller} {ph : Phase} {l : Locals}
    {onIssue : Host.Outcome State Fault Refusal} {onPhase : Phase → Locals → Host.Outcome State Fault Refusal}
    (hC : s.callers[s.actor]? = some C) (hc : C.ctl = .busy cmd ph l) (hne : cmd ≠ i) :
    commandStep i s onIssue onPhase = .next s.refuse := by
  simp [commandStep, hC, hc, hne]

/-- A second command of a Busy caller, as a command other than the running one (rule R349 (b)). -/
theorem exec_of_otherBusy {s : State} {i cmd : Instr} {ph : Phase} {l : Locals} (hi : i.isCommand = true)
    (hb : s.actorBusy cmd ph l) (hne : cmd ≠ i) : exec i s = .next s.refuse := by
  obtain ⟨C, hC, hc⟩ := hb
  obtain ⟨onIssue, he⟩ := exec_eq_commandStep s hi
  rw [he, commandStep_otherBusy hC hc hne]

/-- Settles O45: each misuse is `State.refuse`, and a refused run stops. -/
theorem misuseIsRefused : Obligations.MisuseIsRefused := by
  intro s
  refine ⟨step_of_refused, fun p P hr hp hm hP hcv => ?interrupt, fun c C cmd ph l hr hp hm hC hc => ?busyMove,
    fun i cmd ph l => exec_of_otherBusy, fun hr hout => step_of_outOfRange hr ?outOfRange⟩
  case interrupt =>
    calc step s = runMove (.callFromInterrupt p) s.takeMove := step_eq_runMove ⟨hr, hp⟩ hm
      _ = .next s.takeMove.refuse := congrArg _ (callFromInterruptMove_of_cv (by simpa using hP) hcv)
  case busyMove =>
    calc step s = runMove (.callWhileBusy c) s.takeMove := step_eq_runMove ⟨hr, hp⟩ hm
      _ = .next s.takeMove.refuse := congrArg _ (callWhileBusyMove_of_busy (by simpa using hC) hc)
  case outOfRange =>
    rw [← Bool.not_eq_true, State.paramsInRange_iff]
    rintro ⟨hports, hcallers, hqcap, ⟨hlength, hclocks⟩, hdivisors⟩
    simp only [hclocks, false_or] at hout
    omega

/-! ### One outcome for each command (rules R340, R345 and R351) -/

/-- Settles O58: each effect of a command but the refusal is one result, one fault, or its caller Busy with it. -/
theorem oneOutcomePerCommand : Obligations.OneOutcomePerCommand := by
  intro s t i C C' hi hx hr hC hC'
  obtain ⟨_, -, he⟩ := exec_command hi hx
  have becomes {f : Caller → Caller} (h : (s.callers.modify s.actor f)[s.actor]? = some C') : C' = f C :=
    Option.some.inj (h.symm.trans (callers_modify_self f hC))
  cases he with
  | rejects | completes =>
    obtain rfl := becomes hC'
    exact .inl ⟨rfl, ⟨_, rfl⟩, rfl⟩
  | faults _ kind =>
    obtain rfl := becomes hC'
    exact .inr (.inl ⟨rfl, rfl, rfl, kind, rfl⟩)
  | starts =>
    obtain rfl := becomes hC'
    exact .inr (.inr ⟨⟨_, _, rfl⟩, rfl, rfl⟩)
  | phase ph l _ P =>
    cases hf : (phaseStep s.params.qcap i ph l P).2 with
    | goto ph' l' =>
      rw [hf] at hC'
      obtain rfl := becomes hC'
      exact .inr (.inr ⟨⟨ph', l', rfl⟩, rfl, rfl⟩)
    | ret r =>
      rw [hf] at hC'
      obtain rfl := becomes hC'
      exact .inl ⟨rfl, ⟨r, rfl⟩, rfl⟩
  | refuses => cases hr

/-! ### Every step gives a next state (rules R307, R345 and R349) -/

/-- The issuing step of a command always gives a next state. -/
theorem exec_idle_progress {s : State} {i : Instr} (hi : i.isCommand = true) (hidle : s.actorIdle) :
    ∃ t, exec i s = .next t := by
  by_cases hcfg : ∃ p m b cs ps, i = .configure p m b cs ps
  · obtain ⟨p, m, b, cs, ps, rfl⟩ := hcfg
    exact ⟨_, exec_configure hidle⟩
  · obtain ⟨onPass, he⟩ := exec_eq_prologue hi (by simpa using hcfg) hidle
    exact ⟨_, he⟩

/-- The branch that a port's causes select gives a record: ISR_RXNE is selected only when RXBUF holds a byte. -/
theorem handlerStep_of_selected {p : PortId} {i : Instr} {P : Port} (params : Params)
    (hd : decodeCause p P.cv = some i) : ∃ P', handlerStep params i P = some P' := by
  rcases decodeCause_bits hd with ⟨rfl, -⟩ | ⟨rfl, hb⟩ | ⟨rfl, -⟩ | ⟨rfl, -⟩
  · exact ⟨_, rfl⟩
  · rw [Bool.and_eq_true] at hb
    obtain ⟨b, hb⟩ := Option.isSome_iff_exists.mp hb.1
    exact ⟨_, handlerStep_isrRxne params p hb⟩
  · exact ⟨_, rfl⟩
  · exact ⟨_, rfl⟩

section
variable {s : State} (h : s.Inv)
include h

/-- A caller's move takes an enabled step or is skipped. -/
theorem State.Inv.callerMove_progress (c : Nat) : ∃ t, callerMove c s = .next t := by
  cases hen : s.callerEnabled c with
  | false => exact ⟨s, callerMove_of_disabled hen⟩
  | true =>
    obtain ⟨hp, C, hC, ⟨hc, hne⟩ | ⟨i, ph, l, hc⟩⟩ := State.callerEnabled_iff.mp hen
    · cases hd : decodeCommand C.stream with
      | ok r =>
        obtain ⟨i, rest⟩ := r
        rw [callerMove_idle hp hC hc hd]
        exact exec_idle_progress (decodeCommand_isCommand hd) ⟨_, callers_modify_self _ hC, hc⟩
      | error e =>
        obtain ⟨w, ws, hs⟩ := List.exists_cons_of_ne_nil hne
        exact ⟨_, callerMove_illegal hp hC hc hs (hs ▸ hd)⟩
    · have hb := h.busy C (List.mem_of_getElem? hC) i ph l hc
      obtain ⟨P, hP, -⟩ := hb.onConfigured
      rw [callerMove_busy hp hC hc]
      exact ⟨_, exec_phase (s := s.setActor c) hb.phaseFits hP ⟨C, hC, hc⟩⟩

/-- A firing runs the selected branch or is skipped. -/
theorem State.Inv.isrMove_progress (p : Nat) : ∃ t, isrMove p s = .next t := by
  cases hP : s.ports[p]? with
  | none => exact ⟨s, by simp [isrMove, hP]⟩
  | some P =>
    have hp : (BitVec.ofNat 4 p).toNat = p := State.toNat_ofNat_port h.params hP
    have hP' : s.hasPort (BitVec.ofNat 4 p) P := by rwa [State.hasPort, hp]
    rw [← hp]
    cases hd : decodeCause (BitVec.ofNat 4 p) P.cv with
    | none => exact ⟨s, isrMove_of_unselected hP' hd⟩
    | some i =>
      obtain ⟨-, hport⟩ := decodeCause_branch hd
      obtain ⟨P', hh⟩ := handlerStep_of_selected s.params hd
      rw [isrMove_of_selected hP' hd]
      exact ⟨_, exec_of_handlerStep (hport ▸ hP') hh⟩

/-- The shift engine's move takes its step, with a BR code in range, or is skipped. -/
theorem State.Inv.periphMove_progress (p : Nat) (m : Byte) : ∃ t, runMove (.periph p m) s = .next t := by
  cases hP : s.ports[p]? with
  | none => exact ⟨s, by simp [runMove, peripheralMove, hP]⟩
  | some P =>
    cases hx : P.periphStep m with
    | none => exact ⟨s, runMove_periph_of_none hP hx⟩
    | some P' => exact ⟨_, runMove_periph_of_some hP (h.port hP).brFits hx⟩

theorem State.Inv.runMove_progress (m : Move) : ∃ t, runMove m s = .next t := by
  cases m with
  | caller c => exact h.callerMove_progress c
  | isr p => exact h.isrMove_progress p
  | periph p miso => exact h.periphMove_progress p miso
  | modeFault | busError | callFromInterrupt | callWhileBusy => exact ⟨_, rfl⟩

end

/-- Settles O48: taking the move off keeps the invariant, and from it every move gives a next state. -/
theorem invariantStatesStep : Obligations.InvariantStatesStep := by
  intro s h hr
  rw [step_of_takesMove ⟨hr, h.params⟩]
  exact h.takeMove.runMove_progress s.nextMove

end Sys2Proof.Machine
end

section
/-! What a RECEIVE of a port's one user counts and delivers, alone or within an EXCHANGE (`41_transfer.md` rule R213,
`42_interrupt_handler.md` rules R266 to R268). -/

namespace Sys2Proof.Machine

/-! ### The counter and the queue it counts -/

/-- A counter that is not 0 goes down by one, whatever it does at 0. -/
theorem decCount_toNat (u : Underflow) {x : BitVec 16} (h : 1 ≤ x.toNat) : (decCount u x).toNat = x.toNat - 1 := by
  have hx : x ≠ 0 := by
    rintro rfl
    cases h
  have hsub : (x - 1).toNat = x.toNat - 1 := BitVec.toNat_sub_of_le h
  cases u with
  | wrap => exact hsub
  | saturate => rw [decCount, if_neg hx, hsub]

/-- A byte offered to a queue within its capacity is one more, if it fits. -/
theorem length_offered {cap : Nat} {q : List Byte} (b : Byte) (h : q.length ≤ cap) :
    (if q.length < cap then q ++ [b] else q).length = min (q.length + 1) cap := by
  split
  · rw [List.length_append, List.length_singleton]
    omega
  · omega

theorem Port.periphStep_rxcnt {P P' : Port} {m : Byte} (h : P.periphStep m = some P') : P'.rxcnt = P.rxcnt := by
  rcases Port.periphStep_cases h with ⟨f, -, rfl⟩ | ⟨b, -, -, rfl⟩ | ⟨-, -, -, -, rfl⟩
  · rw [Port.complete_eq]
  · rfl
  · rfl

theorem Port.modeFault_rxcnt (P : Port) : P.modeFault.rxcnt = P.rxcnt := by
  rw [Port.modeFault_eq]

/-! ### What the other agents leave of the count -/

section
variable {params : Params} {P P' : Port} {n : BitVec 16}

/-- The count of an armed or complete RECEIVE reads RXCNT, RXNEIE and RXQ. -/
theorem Port.counting.congr (h : P.counting params n) (hcnt : P'.rxcnt = P.rxcnt) (hrx : P'.rxneie = P.rxneie)
    (hq : P'.rxq = P.rxq) : P'.counting params n := by
  rw [Port.counting, hcnt, hrx, hq]
  exact h

/-- So does what is counted at any phase. -/
theorem Port.counted.congr {l : Locals} {ph : Phase} (h : P.counted params n l ph) (hcnt : P'.rxcnt = P.rxcnt)
    (hrx : P'.rxneie = P.rxneie) (hq : P'.rxq = P.rxq) : P'.counted params n l ph := by
  cases ph with
  | rx r =>
    cases r with
    | rx3 => exact hcnt.trans h
    | rx4 | rx5 => exact Port.counting.congr h hcnt hrx hq
    | rx6 => exact (congrArg List.length hq).trans h
    | _ => exact h
  | _ => exact h

/-- A move of the shift engine or of ENV leaves the count. -/
theorem Port.BusFrame.counted (k : P.BusFrame P') (hcnt : P'.rxcnt = P.rxcnt) {l : Locals} {ph : Phase}
    (h : P.counted params n l ph) : P'.counted params n l ph :=
  h.congr hcnt k.rxneie k.rxq

/-- Counting a received byte keeps the count, and the last one leaves what the RECEIVE delivers. -/
theorem Port.counting.countReceived (h : P.counting params n) (hrx : P.rxneie = true) (b : Byte) :
    (P.countReceived params b).counting params n := by
  obtain ⟨hpos, hle, hq⟩ := h.1 hrx
  have hdec := decCount_toNat params.underflow hpos
  have hoffer := length_offered (cap := params.qcap) b (hq ▸ Nat.min_le_right ..)
  by_cases hz : decCount params.underflow P.rxcnt = 0
  · have hlast : P.rxcnt.toNat = 1 := by
      rw [hz] at hdec
      have : (0 : BitVec 16).toNat = 0 := rfl
      omega
    rw [Port.countReceived_of_eq_zero b hz, Port.completeTransfer_receive]
    refine ⟨nofun, fun _ => ?_⟩
    cases hfinal : params.enqueueFinalRx <;> simp only [deliveredCount, hfinal, if_true, Bool.false_eq_true, if_false]
    · rw [hq, hlast]
    · rw [hoffer]
      omega
  · have hmore : (decCount params.underflow P.rxcnt).toNat ≠ 0 := fun e => hz (BitVec.eq_of_toNat_eq e)
    rw [Port.countReceived_of_ne_zero b hz]
    refine ⟨fun _ => ⟨?_, ?_, ?_⟩, fun hoff => nomatch hrx.symm.trans hoff⟩ <;> simp only [hdec, hoffer] <;> omega

/-- A firing during an armed RECEIVE keeps the count. -/
theorem Port.counting.fires {p : PortId} {i : Instr} (h : P.counting params n) (ha : P.rxArmed)
    (hd : decodeCause p P.cv = some i) (hh : handlerStep params i P = some P') : P'.counting params n := by
  obtain ⟨-, htx, hrx, -⟩ := ha
  rcases handlerStep_cases hh with ⟨⟨q, rfl⟩, -⟩ | ⟨-, b, -, rfl⟩ | ⟨-, rfl⟩ | ⟨-, rfl⟩
  · rcases decodeCause_enabled hd with ⟨-, htx'⟩ | ⟨e, -⟩ | ⟨e | e, -⟩
    · cases htx.symm.trans htx'
    all_goals cases e
  · exact Port.counting.countReceived (P := { P with rxbuf := none }) h hrx b
  · exact h
  · exact h

/-- A firing leaves the count: at a phase that has one a cause is enabled only while the RECEIVE is armed. -/
theorem Port.counted.fires {p : PortId} {i : Instr} {l : Locals} {ph : Phase} (h : P.counted params n l ph)
    (hat : P.atPhase ph) (hd : decodeCause p P.cv = some i) (hh : handlerStep params i P = some P') :
    P'.counted params n l ph := by
  have quiet (hoff : P.causesOff) : P'.counted params n l ph :=
    nomatch (hoff.decodeCause_eq_none p).symm.trans hd
  cases ph with
  | rx r =>
    cases r with
    | rx3 | rx6 => exact quiet hat.2.1
    | rx4 | rx5 =>
      rcases hat with ha | ⟨-, hoff, -⟩
      · exact Port.counting.fires h ha hd hh
      · exact quiet hoff
    | _ => exact h
  | _ => exact h

end

/-! ### What the user's own phases count -/

/-- Where a phase that leaves the port's record `P` goes: on to a phase with its count, or to the end of the transfer,
which when it is OK delivers what a RECEIVE of length `n` does. -/
def Flow.counted (params : Params) (n : BitVec 16) (P : Port) : Flow → Prop
  | .goto ph l => P.counted params n l ph
  | .ret r => r.status = .ok → r.data.length = deliveredCount params n

section
variable {params : Params} {n : BitVec 16} {l : Locals} {P : Port}

theorem rxPhase_counted (f : Byte) {r : RxPhase} (hn : n ≠ 0) (hat : P.atPhase (.rx r))
    (h : P.counted params n l (.rx r)) : (rxPhase n f r l P).2.counted params n (rxPhase n f r l P).1 := by
  cases r with
  | rx1 =>
    obtain ⟨ht, -⟩ := hat
    rw [rxPhase_rx1_available n f ht]
    trivial
  | rx2 => exact rfl
  | rx3 =>
    obtain ⟨-, -, -, hq, -⟩ := hat
    have hcnt : P.rxcnt = n := h
    have hpos : n.toNat ≠ 0 := fun e => hn (BitVec.eq_of_toNat_eq e)
    rw [rxPhase_rx3]
    refine ⟨fun _ => ⟨?_, ?_, ?_⟩, nofun⟩ <;> simp only [hcnt, hq, List.length_nil] <;> omega
  | rx5 =>
    rcases hat with ⟨ht, -⟩ | ⟨ht, ⟨-, hrx, -⟩, -⟩
    · rw [rxPhase_rx5_timeout n f ht]
      trivial
    · rw [rxPhase_rx5_available n f ht]
      exact h.2 hrx
  | rx4 | rx6 => exact h
  | rx7 => exact fun _ => h
  | rxa1 | rxa2 | rxa3 => trivial
  | rxa4 => exact nofun

/-- A phase of TRANSMIT goes on to one of TRANSMIT. -/
theorem txPhase_goto {qcap : Nat} {t : TxPhase} {ph : Phase} {l' : Locals} (h : (txPhase qcap t l P).2 = .goto ph l') :
    ∃ t', ph = .tx t' := by
  cases t with
  | tx1 =>
    simp only [txPhase] at h
    split at h <;> cases h
    exact ⟨_, rfl⟩
  | tx2 =>
    simp only [txPhase] at h
    repeat' split at h
    all_goals
      cases h
      exact ⟨_, rfl⟩
  | tx5 =>
    simp only [txPhase] at h
    split at h
    all_goals
      cases h
      exact ⟨_, rfl⟩
  | tx3 | tx4 | txf1 | txa1 | txa2 | txa3 =>
    cases h
    exact ⟨_, rfl⟩
  | tx6 | txf2 | txa4 => cases h

/-- An EXCHANGE has nothing to count before its RECEIVE, and nothing to deliver when its TRANSMIT fails. -/
theorem exchangeAfterTx_counted {flow : Flow} (h : ∀ ph l', flow = .goto ph l' → ∃ t, ph = .tx t) :
    (exchangeAfterTx l flow).counted params n P := by
  cases flow with
  | goto ph l' =>
    obtain ⟨t, rfl⟩ := h ph l' rfl
    trivial
  | ret r =>
    by_cases hok : r.status = .ok
    · simp only [exchangeAfterTx, if_pos hok]
      trivial
    · simp only [exchangeAfterTx, if_neg hok]
      exact fun e => absurd e hok

theorem exchangeAfterRx_counted {flow : Flow} (h : flow.counted params n P) :
    (exchangeAfterRx l flow).counted params n P := by
  cases flow with
  | goto ph l' => exact h
  | ret r => exact h

theorem exPhase_counted {ph : Phase} (hn : n ≠ 0) (hat : P.atPhase ph) (h : P.counted params n l ph) :
    (exPhase params.qcap n ph l P).2.counted params n (exPhase params.qcap n ph l P).1 := by
  cases ph with
  | ex1 => trivial
  | tx t => exact exchangeAfterTx_counted fun _ _ => txPhase_goto
  | rx r => exact exchangeAfterRx_counted (rxPhase_counted 0 hn hat h)
  | ex5 => exact h

/-- A phase of a transfer that receives `n >= 1` bytes keeps its count, and an OK end delivers it. -/
theorem phaseStep_counted {i : Instr} {ph : Phase} (hf : ph.fits i = true) (hi : receiveLength i = some n) (hn : n ≠ 0)
    (hat : P.atPhase ph) (h : P.counted params n l ph) :
    (phaseStep params.qcap i ph l P).2.counted params n (phaseStep params.qcap i ph l P).1 := by
  cases i with
  | receive p len f =>
    cases hi
    cases ph with
    | rx r => exact rxPhase_counted f hn hat h
    | _ => cases hf
  | exchange p payload len =>
    cases hi
    exact exPhase_counted hn hat h
  | _ => cases hi

end

/-! ### The count on the state -/

/-- A port is as the phase of its one user says. -/
theorem State.SoleInv.atPhase {s : State} {p c : Nat} {C : Caller} {i : Instr} {ph : Phase} {l : Locals} {P : Port}
    (h : s.SoleInv p c) (hC : s.callers[c]? = some C) (hc : C.ctl = .busy i ph l) (hp : i.port.toNat = p)
    (hP : s.ports[p]? = some P) : P.atPhase ph := by
  have := (State.soleInv_iff.mp h).2 P hP
  rwa [State.phaseOn_busy p hC hc, if_pos hp] at this

/-- The count reads the parameters, its port and its caller. -/
theorem State.CountInv.congr {s t : State} {p c : Nat} (h : s.CountInv p c) (hparams : t.params = s.params)
    (hport : t.ports[p]? = s.ports[p]?) (hcaller : t.callers[c]? = s.callers[c]?) : t.CountInv p c := by
  intro C P i ph l n hC hc hp hi hn hP
  rw [hparams]
  exact h C P i ph l n (hcaller.symm.trans hC) hc hp hi hn (hport.symm.trans hP)

/-- A caller that is not Busy counts nothing. -/
theorem State.countInv_of_notBusy {t : State} {c : Nat} {C : Caller} (p : Nat) (hC : t.callers[c]? = some C)
    (hc : ∀ i ph l, C.ctl ≠ .busy i ph l) : t.CountInv p c := by
  intro D P i ph l n hD hd
  cases hC.symm.trans hD
  exact absurd hd (hc i ph l)

/-- A write of one port that leaves the count of every phase, by an agent that is no caller. -/
theorem State.CountInv.setPort {s : State} {p c q : Nat} {Q X : Port} (h : s.CountInv p c) (hs : s.SoleInv p c)
    (hQ : s.ports[q]? = some Q)
    (hX : ∀ n l ph, Q.atPhase ph → Q.counted s.params n l ph → X.counted s.params n l ph) :
    (s.takeMove.setPort q X).CountInv p c := by
  intro C P' i ph l n hC hc hp hi hn hP'
  replace hC : s.callers[c]? = some C := by simpa using hC
  rw [State.setPort_params, s.takeMove_params]
  by_cases e : p = q
  · subst e
    cases (State.ports_setPort_self (s := s.takeMove) X (by simpa using hQ)).symm.trans hP'
    exact hX n l ph (hs.atPhase hC hc hp hQ) (h C Q i ph l n hC hc hp hi hn hQ)
  · rw [State.ports_setPort_ne _ _ e, s.takeMove_ports] at hP'
    exact h C P' i ph l n hC hc hp hi hn hP'

/-- A caller that issues a command counts nothing yet. -/
theorem CommandEffect.countInv_of_idle {i : Instr} {u t : State} {C : Caller} (he : CommandEffect i u C t) (p : Nat)
    (hC : u.callers[u.actor]? = some C) (hc : C.ctl = .idle) : t.CountInv p u.actor := by
  cases he with
  | rejects | faults | completes => exact State.countInv_of_notBusy p (callers_modify_self _ hC) nofun
  | starts =>
    intro D P j ph l n hD hd _ hj
    cases (callers_modify_self _ hC).symm.trans hD
    cases hd
    cases i with
    | receive | exchange => exact fun _ _ => trivial
    | _ => cases hj
  | phase _ _ hb | refuses _ _ _ hb => cases hc.symm.trans hb

/-- The caller's record after a phase keeps the count when its flow does. -/
theorem State.follow_countInv {u : State} {p c : Nat} {C : Caller} {i : Instr} {flow : Flow}
    (hC : u.callers[c]? = some C)
    (h : ∀ P n, u.ports[p]? = some P → i.port.toNat = p → receiveLength i = some n → n ≠ 0 →
      flow.counted u.params n P) : (u.follow c i flow).CountInv p c := by
  cases flow with
  | goto ph l =>
    intro D P j ph' l' n hD hd hp hj hn hP
    cases (callers_modify_self _ hC).symm.trans hD
    cases hd
    exact h P n hP hp hj hn
  | ret r => exact State.countInv_of_notBusy p (callers_modify_self _ hC) nofun

/-- A phase of its one user's transfer leaves caller and port so that the flow counts. -/
theorem exec_phase_counted {s t : State} {p c : Nat} {C : Caller} {i : Instr} {ph : Phase} {l : Locals} (hinv : s.Inv)
    (hs : s.SoleInv p c) (h : s.CountInv p c) (hC : s.callers[c]? = some C) (hc : C.ctl = .busy i ph l)
    (hx : exec i (s.takeMove.setActor c) = .next t) :
    ∃ (u : State) (flow : Flow), t = u.follow c i flow ∧ u.callers[c]? = some C ∧ u.params = s.params ∧
      ∃ P', u.hasPort i.port P' ∧ (i.port.toNat = p → ∀ n, receiveLength i = some n → n ≠ 0 →
        flow.counted s.params n P') := by
  have hb : BusySound s i ph l := hinv.busy C (List.mem_of_getElem? hC) i ph l hc
  have hC' : (s.takeMove.setActor c).callers[c]? = some C := by simpa using hC
  obtain ⟨P, hP, rfl⟩ := exec_busy (isCommand_of_isTransfer hb.transfer) hC' hc hx
  refine ⟨_, _, rfl, hC', by simp, _, State.ports_setPort_self _ hP, ?_⟩
  rintro rfl n hi hn
  have hP : s.hasPort i.port P := by simpa [State.hasPort] using hP
  simpa using phaseStep_counted hb.phaseFits hi hn (hs.atPhase hC hc rfl hP) (h C P i ph l n hC hc rfl hi hn hP)

/-- Every step keeps the count while no other caller issues on the port. -/
theorem StepEffect.countInv {s t : State} {p c : Nat} (he : StepEffect s t) (hinv : s.Inv) (hs : s.SoleInv p c)
    (hu : s.soleUser p c) (h : s.CountInv p c) : t.CountInv p c := by
  have moved (u : State) (hparams : u.params = s.params) (hports : u.ports = s.ports)
      (hcaller : u.callers[c]? = s.callers[c]?) : u.CountInv p c := h.congr hparams (by rw [hports]) hcaller
  /- A command of another caller names another port. -/
  have other {u : State} {i : Instr} (hi : i.isCommand = true) (hx : exec i u = .next t) (hk : c ≠ u.actor)
      (hp : i.port.toNat ≠ p) (hcount : u.CountInv p c) : t.CountInv p c := by
    have frame := exec_command_changesOnly hi hx
    exact hcount.congr frame.params (frame.otherPorts p hp.symm) (frame.otherCallers c hk)
  cases he with
  | outOfRange => exact h.congr rfl rfl rfl
  | skips | misuse => exact moved _ (by simp) (by simp) (by simp)
  | issues k C i rest t hm hC hc hd hon hx =>
    have hi := decodeCommand_isCommand hd
    by_cases hk : c = k
    · subst hk
      obtain ⟨D, hD, he⟩ := exec_command hi hx
      cases (callers_modify_self _ (by simpa using hC)).symm.trans hD
      exact he.countInv_of_idle p hD hc
    · exact other hi hx hk (fun e => hk (hu k (e ▸ hon)).symm)
        (moved _ (by simp) (by simp) (by rw [State.setStream_callers, callers_modify_ne _ _ hk]; simp))
  | illegal k C hC hc =>
    by_cases hk : c = k
    · subst hk
      exact State.countInv_of_notBusy (C := { C with ctl := .stopped }) p
        (callers_modify_self _ (by simpa using hC)) nofun
    · exact moved _ (by simp) (by simp) (by rw [State.raiseFault_callers, callers_modify_ne _ _ hk]; simp)
  | continues k C i ph l t hm hC hc hx =>
    by_cases hk : c = k
    · subst hk
      obtain ⟨u, flow, rfl, hC', hparams, P', hP', hflow⟩ := exec_phase_counted hinv hs h hC hc hx
      refine State.follow_countInv hC' fun P n hP hp hi hn => ?_
      subst hp
      cases hP'.symm.trans hP
      exact hparams ▸ hflow rfl n hi hn
    · refine other (hinv.busyOnCommands k C i ph l hC hc) hx hk (fun e => ?_)
        (moved _ (by simp) (by simp) (by simp))
      have := hs.othersAway k (Ne.symm hk)
      rw [State.phaseOn_busy p hC hc, if_pos e] at this
      cases this
  | fires q Q X i hm hQ hd hh => exact h.setPort hs hQ fun n l ph hat hn => hn.fires hat hd hh
  | shifts q m Q X hm hQ hx =>
    exact h.setPort hs hQ fun n l ph _ => (Port.periphStep_busFrame hx).counted (Port.periphStep_rxcnt hx)
  | modeFault q Q hm hbe hQ =>
    exact h.setPort hs hQ fun n l ph _ => Q.modeFault_busFrame.counted Q.modeFault_rxcnt
  | busError q Q hbe hQ => exact h.setPort hs hQ fun n l ph _ => Q.busError_busFrame.counted rfl

/-- Settles O51: every step keeps the count, and only its own phase gives the user a result, which delivers it. -/
theorem receiveDeliversItsCount : Obligations.ReceiveDeliversItsCount := by
  intro s t p c hinv hs hu h hstep
  have he := step_effect hstep
  refine ⟨he.countInv hinv hs hu h, ?_⟩
  intro C C' i ph l n r hC hc hp hi hn hC' hresults hok
  have gained : C'.results ≠ C.results := by simp [hresults]
  rcases he.ownPhase_or hinv.busyOnCommands hs hu hC hc with hx | ⟨hsame, -⟩
  · obtain ⟨u, flow, rfl, hCu, -, P', -, hflow⟩ := exec_phase_counted hinv hs h hC hc hx
    cases flow with
    | goto ph' l' =>
      cases (callers_modify_self _ hCu).symm.trans hC'
      exact absurd rfl gained
    | ret r' =>
      cases (callers_modify_self _ hCu).symm.trans hC'
      obtain rfl : r' = r := by simpa using hresults
      exact hflow hp n hi hn hok
  · cases hsame.symm.trans hC'
    exact absurd rfl gained

end Sys2Proof.Machine
end

section
/-! A CONFIGURE that returns OK, and the runs that start with one (`40_configure.md` rule R170,
`70_reset_and_hazards.md` rules R393 and R430). -/

namespace Sys2Proof.Machine

/-! ### The configured idle state (rule R393) -/

theorem Port.disableIrq_all (P : Port) :
    P.disableIrq .all = { P with txeie := false, rxneie := false, errie := false } := by
  simp [Port.disableIrq, IrqSet.all]

/-- A CONFIGURE leaves nothing of its port's record but the traces, WIRE with the aborted frame. -/
theorem Port.configure_eq (P : Port) (mode : BitVec 2) (br : BitVec 3) (cspin pinset : Word) :
    P.configure mode br cspin pinset = { Port.reset true with
      configured := true
      mode := mode
      br := br
      clken := true
      cspin := cspin
      pinset := pinset
      wire := P.abortFrame.wire
      drlog := P.drlog } := by
  rw [Port.configure, Port.disableIrq_all, Port.abortFrame_eq]
  rfl

theorem Port.configure_configuredIdle (P : Port) (mode : BitVec 2) (br : BitVec 3) (cspin pinset : Word) :
    (P.configure mode br cspin pinset).configuredIdle mode br cspin pinset := by
  rw [Port.configure_eq]
  exact ⟨rfl, rfl, rfl, rfl, rfl, rfl, rfl, rfl, rfl, rfl, rfl, rfl, rfl, rfl, rfl, rfl, rfl, rfl, rfl, rfl, rfl⟩

/-- Settles O16: the four checks pass, and the port's record becomes the configured idle one. -/
theorem configureInitialisesPort : Obligations.ConfigureInitialisesPort := by
  intro s p mode baud cspin pinset P k hidle hP hmode hk hfree
  have hbusy : ¬s.configBusy s.actor p P = true := by
    rw [State.configBusy_iff]
    rintro ⟨hcfg, htaken | ⟨c, C, cmd, ph, l, hne, hC, hc, hcmd⟩⟩
    · cases (hfree hcfg).1.symm.trans htaken
    · exact (hfree hcfg).2 c C cmd ph l hne hC hc hcmd
  rw [exec_configure hidle, configureIssue_valid hP (modeOf_of_le hmode) hk, if_neg hbusy, Port.configure_eq,
    Port.abortFrame_eq]
  rfl

/-! ### The step of a CONFIGURE that returns OK -/

section
variable {s : State} {p : PortId} {mode : Byte} {baud cspin pinset : Word} {C C' : Caller}

/-- What CONFIGURE can do: reject an argument, fault on a busy port, or configure a free one. -/
theorem configureIssue_cases (p : PortId) (mode : Byte) (baud cspin pinset : Word) (s : State) :
    configureIssue p mode baud cspin pinset s = s.returnResult s.actor (.plain .invalidArgument) ∨
    configureIssue p mode baud cspin pinset s =
      s.raiseFault .configBusy s.actor (Instr.configure p mode baud cspin pinset).word0 ∨
    ∃ P m k, s.hasPort p P ∧ prescale s.params (busClock s.params p.toNat) baud.toNat = some k ∧
      ¬s.configBusy s.actor p P = true ∧
      configureIssue p mode baud cspin pinset s =
        (s.setPort p.toNat (P.configure m (BitVec.ofNat 3 (k - s.params.pmin)) cspin pinset)).returnResult s.actor
          (.plain .ok) := by
  cases hP : s.ports[p.toNat]? with
  | none => exact .inl (configureIssue_invalid (.inl hP))
  | some P =>
    cases hm : modeOf mode with
    | none => exact .inl (configureIssue_invalid (.inr (.inl hm)))
    | some m =>
      cases hk : prescale s.params (busClock s.params p.toNat) baud.toNat with
      | none => exact .inl (configureIssue_invalid (.inr (.inr hk)))
      | some k =>
        rw [configureIssue_valid hP hm hk]
        by_cases hbusy : s.configBusy s.actor p P = true
        · exact .inr (.inl (if_pos hbusy))
        · exact .inr (.inr ⟨P, m, k, hP, rfl, hbusy, if_neg hbusy⟩)

/-- In a state that meets the invariant no caller is Busy on a port that a CONFIGURE finds free: the port is
unconfigured, or rule R174 has looked at every other caller. -/
theorem State.Inv.nobodyBusy {P : Port} (h : s.Inv) (hC : s.callers[s.actor]? = some C) (hc : C.ctl = .idle)
    (hP : s.hasPort p P) (hfree : ¬s.configBusy s.actor p P = true) :
    ∀ D ∈ s.callers, ∀ cmd ph l, D.ctl = .busy cmd ph l → cmd.port ≠ p := by
  rintro D hD cmd ph l hd rfl
  have hb := h.busy D hD cmd ph l hd
  obtain ⟨Q, hQ, hcfg⟩ := hb.onConfigured
  cases hP.symm.trans hQ
  obtain ⟨c, hDc⟩ := List.mem_iff_getElem?.mp hD
  have hne : c ≠ s.actor := by
    rintro rfl
    cases hC.symm.trans hDc
    cases hc.symm.trans hd
  exact hfree (State.configBusy_iff.mpr ⟨hcfg, .inr ⟨c, D, cmd, ph, l, hne, hDc, hd, hb.transfer, rfl⟩⟩)

/-- A CONFIGURE that returns OK leaves a clean entry of its port, and raises no fault. -/
theorem exec_configure_ok {t : State} (h : s.Inv) (hC : s.callers[s.actor]? = some C) (hc : C.ctl = .idle)
    (hx : exec (.configure p mode baud cspin pinset) s = .next t) (hC' : t.callers[s.actor]? = some C')
    (hok : C'.results = C.results ++ [.plain .ok]) : t.cleanEntry p ∧ t.faults = s.faults := by
  rw [exec_configure ⟨C, hC, hc⟩] at hx
  cases hx
  rcases configureIssue_cases p mode baud cspin pinset s with e | e | ⟨P, m, k, hP, hk, hfree, e⟩ <;> rw [e] at hC' ⊢
  · cases (callers_modify_self _ hC).symm.trans hC'
    simp [CommandResult.plain] at hok
  · cases (callers_modify_self _ hC).symm.trans hC'
    simp at hok
  · exact ⟨⟨⟨_, m, baud, k, cspin, pinset, State.ports_setPort_self _ hP, hk, P.configure_configuredIdle _ _ _ _⟩,
      forall_mem_modify hC (h.nobodyBusy hC hc hP hfree) nofun⟩, rfl⟩

end

/-- The step of a caller that issues a legal command. -/
theorem State.issues.step_eq {s : State} {c : Nat} {w : Word} {C : Caller} {i : Instr} {rest : List Word}
    (h : s.issues c w) (hC : s.callers[c]? = some C) (hd : decodeCommand C.stream = .ok (i, rest)) :
    C.ctl = .idle ∧ step s = exec i ((s.takeMove.setActor c).setStream c rest) := by
  obtain ⟨hs, hm, hen, D, hD, hc, -⟩ := h
  cases hC.symm.trans hD
  obtain ⟨hp, -⟩ := State.callerEnabled_iff.mp hen
  exact ⟨hc, (step_eq_callerMove hs hm).trans (callerMove_idle (by simpa using hp) (by simpa using hC) hc hd)⟩

/-- The step that issues a CONFIGURE which returns OK leaves a clean entry of its port, and raises no fault. -/
theorem State.Inv.step_configure_ok {s t : State} {c : Nat} {w : Word} {C C' : Caller} {p : PortId} {mode : Byte}
    {baud cspin pinset : Word} {rest : List Word} (h : s.Inv) (hon : s.issues c w) (hC : s.callers[c]? = some C)
    (hd : decodeCommand C.stream = .ok (.configure p mode baud cspin pinset, rest)) (hstep : step s = .next t)
    (hC' : t.callers[c]? = some C') (hok : C'.results = C.results ++ [.plain .ok]) :
    t.cleanEntry p ∧ t.faults = s.faults := by
  obtain ⟨hc, hx⟩ := hon.step_eq hC hd
  have hCm : (s.takeMove.setActor c).callers[c]? = some C := by simpa using hC
  have hu := (h.takeMove.setActor c).setStream hCm rest
  obtain ⟨hclean, hfaults⟩ := exec_configure_ok (C := { C with stream := rest }) hu (callers_modify_self _ hCm) hc
    (hx.symm.trans hstep) hC' hok
  exact ⟨hclean, hfaults.trans s.takeMove_faults⟩

/-! ### Who raises UNCONFIGURED (rule R347) -/

theorem portOf_word0 {i : Instr} (hi : i.isCommand = true) : portOf i.word0 = i.port := by
  cases i with
  | configure | transmit | receive | exchange | setCs | getCs => exact portOf_commandWord ..
  | _ => cases hi

theorem State.follow_faults (s : State) (c : Nat) (cmd : Instr) (flow : Flow) :
    (s.follow c cmd flow).faults = s.faults := by
  cases flow <;> rfl

section
variable {r : FaultRecord} {i : Instr} {s t : State}

/-- The prologue's one new record is that of an unconfigured port. -/
theorem prologue_newFault {onPass : Port → State} (hpass : ∀ P, (onPass P).faults = s.faults)
    (hr : r ∈ (prologue i s onPass).faults) (hnew : r ∉ s.faults) :
    r.word0 = i.word0 ∧ ∃ P, s.hasPort i.port P ∧ P.configured = false := by
  rcases prologue_cases i s onPass with ⟨-, e⟩ | ⟨P, hP, hcfg, e⟩ | ⟨P, -, -, e⟩ <;> rw [e] at hr
  · exact absurd hr hnew
  · rcases mem_insertFault.mp hr with hr | rfl
    · exact absurd hr hnew
    · exact ⟨rfl, P, hP, hcfg⟩
  · exact absurd (hpass P ▸ hr) hnew

/-- A CONFIGURE's one new record is of CONFIG_BUSY. -/
theorem configureIssue_newFault {p : PortId} {mode : Byte} {baud cspin pinset : Word}
    (hr : r ∈ (configureIssue p mode baud cspin pinset s).faults) (hnew : r ∉ s.faults) : r.kind = .configBusy := by
  rcases configureIssue_cases p mode baud cspin pinset s with e | e | ⟨P, m, k, -, -, -, e⟩ <;> rw [e] at hr
  · exact absurd hr hnew
  · rcases mem_insertFault.mp hr with hr | rfl
    · exact absurd hr hnew
    · rfl
  · exact absurd hr hnew

/-- A new UNCONFIGURED record of an Idle caller's command is of its word 0, and its port is unconfigured. -/
theorem exec_unconfigured (hi : i.isCommand = true) (hidle : s.actorIdle) (hx : exec i s = .next t) (hr : r ∈ t.faults)
    (hnew : r ∉ s.faults) (hkind : r.kind = .unconfigured) :
    r.word0 = i.word0 ∧ ∃ P, s.hasPort i.port P ∧ P.configured = false := by
  obtain ⟨C, hC, hc⟩ := id hidle
  have passes {onPass : Port → State} (he : exec i s = .next (prologue i s onPass))
      (hpass : ∀ P, (onPass P).faults = s.faults) :
      r.word0 = i.word0 ∧ ∃ P, s.hasPort i.port P ∧ P.configured = false := by
    cases he.symm.trans hx
    exact prologue_newFault hpass hr hnew
  cases i with
  | configure p mode baud cspin pinset =>
    rw [exec_configure hidle] at hx
    cases hx
    cases (configureIssue_newFault hr hnew).symm.trans hkind
  | transmit | receive | exchange | setCs | getCs => exact passes (commandStep_idle hC hc) fun _ => rfl
  | _ => cases hi

/-- A step adds an UNCONFIGURED record only when it issues a command, that of the record, on an unconfigured port. -/
theorem StepEffect.unconfigured (h : StepEffect s t) (hb : s.BusyOnCommands) (hr : r ∈ t.faults) (hnew : r ∉ s.faults)
    (hkind : r.kind = .unconfigured) :
    (∃ c, s.issuesOn c (portOf r.word0).toNat) ∧ ∃ P, s.hasPort (portOf r.word0) P ∧ P.configured = false := by
  have kept (e : t.faults = s.faults) : r ∈ s.faults := e ▸ hr
  cases h with
  | outOfRange => exact absurd (kept rfl) hnew
  | skips | misuse | fires | shifts | modeFault | busError => exact absurd (kept (by simp)) hnew
  | issues c C i rest t hm hC hc hd hon hx =>
    have hi := decodeCommand_isCommand hd
    have hC' : (s.takeMove.setActor c).callers[c]? = some C := by simpa using hC
    obtain ⟨hw, P, hP, hcfg⟩ := exec_unconfigured hi ⟨{ C with stream := rest }, callers_modify_self _ hC', hc⟩ hx hr
      (by simpa using hnew) hkind
    rw [hw, portOf_word0 hi]
    exact ⟨⟨c, hon⟩, P, by simpa [State.hasPort] using hP, hcfg⟩
  | illegal c C hC hc =>
    rcases mem_insertFault.mp hr with hr | rfl
    · exact absurd (by simpa using hr) hnew
    · cases hkind
  | continues c C i ph l t hm hC hc hx =>
    obtain ⟨P, -, rfl⟩ := exec_busy (hb c C i ph l hC hc) (by simpa using hC) hc hx
    exact absurd (kept (by simp [State.follow_faults])) hnew

end

/-! ### Runs whose first command is a CONFIGURE (rule R430) -/

/-- Along a run the invariant holds throughout. -/
theorem run_inv {run : Nat → State} {n : Nat} (hrun : isRunTo run n) (h : (run 0).Inv) : ∀ k, k ≤ n → (run k).Inv := by
  intro k hk
  induction k with
  | zero => exact h
  | succ k ih => exact stepKeepsInvariant _ _ (ih (by omega)) (hrun k hk)

/-- Along a run a configured port stays configured. -/
theorem run_configured {run : Nat → State} {n m p : Nat} (hrun : isRunTo run n)
    (hm : ∃ P, (run m).ports[p]? = some P ∧ P.configured = true) :
    ∀ j, m ≤ j → j ≤ n → ∃ P, (run j).ports[p]? = some P ∧ P.configured = true := by
  intro j hmj
  induction j, hmj using Nat.le_induction with
  | base => exact fun _ => hm
  | succ j _ ih =>
    intro hj
    obtain ⟨P, hP, hcfg⟩ := ih (by omega)
    have hstep := hrun j hj
    have hlt : p < (run (j + 1)).ports.length :=
      (step_effect hstep).sticky.portCount ▸ (List.getElem?_eq_some_iff.mp hP).1
    have hP' := List.getElem?_eq_getElem hlt
    exact ⟨_, hP', (configurationIsNeverUndone _ _ p P _ hstep hP hP').1 hcfg⟩

/-- Settles O60: UNCONFIGURED needs a command on an unconfigured port, and the first command on this one configures
it for good. -/
theorem configuredRunIsClean : Obligations.ConfiguredRunIsClean := by
  intro run p k n hrun hinv ⟨hfirst, c, w, C, C', mode, baud, cspin, pinset, rest, hon, hC, hd, hC', hok⟩ hk
  have hall := run_inv hrun hinv
  obtain ⟨hclean, hfaults⟩ := (hall k hk.le).step_configure_ok hon hC hd (hrun k hk) hC' hok
  have hcfg : ∃ P, (run (k + 1)).ports[p.toNat]? = some P ∧ P.configured = true := by
    obtain ⟨⟨P, _, _, _, _, _, hP, -, hcfg, -⟩, -⟩ := hclean
    exact ⟨P, hP, hcfg⟩
  refine ⟨hclean, fun j hj r hr hkind hr0 => ?_⟩
  induction j with
  | zero => exact absurd hr hr0
  | succ j ih =>
    by_cases hold : r ∈ (run j).faults
    · exact ih (by omega) hold
    · rintro rfl
      obtain ⟨⟨c', hon'⟩, P, hP, hunc⟩ :=
        (step_effect (hrun j hj)).unconfigured (hall j (by omega)).busyOnCommands hr hold hkind
      rcases Nat.lt_trichotomy j k with hlt | rfl | hgt
      · exact hfirst j hlt c' hon'
      · exact hold (hfaults ▸ hr)
      · obtain ⟨Q, hQ, hcfgQ⟩ := run_configured hrun hcfg j hgt (by omega)
        cases hP.symm.trans hQ
        cases hunc.symm.trans hcfgQ

end Sys2Proof.Machine
end
